-- ==== Sys2Proof/Word.lean ====
section
/-! DEFINITION. The bit patterns of CORE's ports and registers (spec 00_scope.md R12, R13; 20_memory.md R50, R54). -/

namespace Sys2Proof

/-- The container of a value register or of RES: a pattern of `W` bits (R21, R28), zero-extended to the widest legal
`W` = 64. That the bits from `W` up are zero is part of the invariant `Sys2Proof.Machine.State.Inv`
(DESIGN CHOICE, log 1). -/
abbrev Word := BitVec 64

/-- A command word on `cmd` (R50, R70). -/
abbrev Cmd := BitVec 32

/-- The data operand on `data` (R50). -/
abbrev Data := BitVec 64

/-- An index of a value register `V0` to `V7`: every value 0 to 7 is legal (R10, R73). -/
abbrev Reg := Fin 8

end Sys2Proof
end

