-- ==== Sys2Proof/Syntax.lean ====
section
/-! DEFINITION. The commands of CORE, one constructor for each row of spec/opcode_table.json, in the table's order
(spec 30_encoding.md R72, R76). -/

namespace Sys2Proof

/-- A command with its operands (R71 to R74). The data operand is not part of the command: it is on the `data` port (R75).
A shift amount is a number that `Instr.wf` bounds by 64. -/
inductive Instr where
  | nop
  | zero  (rd : Reg)
  | mov   (rd rs1 : Reg)
  | cvts  (rd : Reg)
  | cvtd  (rd : Reg)
  | ldraw (rd : Reg)
  | rd    (rs1 : Reg)
  | clrst
  | add   (rd rs1 rs2 : Reg)
  | sub   (rd rs1 rs2 : Reg)
  | inc   (rd rs1 : Reg)
  | dec   (rd rs1 : Reg)
  | shl   (rd rs1 : Reg) (sh : Nat)
  | shr   (rd rs1 : Reg) (sh : Nat)
  | mul   (rd rs1 rs2 : Reg)
  | div   (rd rs1 rs2 : Reg)
  | ceq   (rs1 rs2 : Reg)
  | cne   (rs1 rs2 : Reg)
  | clt   (rs1 rs2 : Reg)
  | cle   (rs1 rs2 : Reg)
  | cgt   (rs1 rs2 : Reg)
  | cge   (rs1 rs2 : Reg)
  deriving DecidableEq, Repr

end Sys2Proof
end

