-- ==== Sys2Proof/WellFormed.lean ====
section
/-! DEFINITION. Which commands are well-formed: those that have an encoding. Register indexes are legal by their type (spec
30_encoding.md R73); the shift amount is the one operand with a bound (R74). -/

namespace Sys2Proof

/-- The shift amount is an unsigned 6-bit immediate, 0 to 63 (R74). -/
def shiftAmountFits (sh : Nat) : Bool := decide (sh < 64)

/-- The command has an encoding. -/
def Instr.wf : Instr → Bool
  | .shl _ _ sh => shiftAmountFits sh
  | .shr _ _ sh => shiftAmountFits sh
  | .nop => true
  | .zero _ => true
  | .mov _ _ => true
  | .cvts _ => true
  | .cvtd _ => true
  | .ldraw _ => true
  | .rd _ => true
  | .clrst => true
  | .add _ _ _ => true
  | .sub _ _ _ => true
  | .inc _ _ => true
  | .dec _ _ => true
  | .mul _ _ _ => true
  | .div _ _ _ => true
  | .ceq _ _ => true
  | .cne _ _ => true
  | .clt _ _ => true
  | .cle _ _ => true
  | .cgt _ _ => true
  | .cge _ _ => true

end Sys2Proof
end

