-- ==== Sys2Proof/Decode.lean ====
section
/-! DEFINITION. The decoder, total on every 32-bit word and naming why it rejects one, and the encoder (spec 30_encoding.md
R70 to R78). -/

namespace Sys2Proof

/-- The formats of R72. -/
inductive Format where
  | n | d | ds | s | dss | ss | dsh
  deriving DecidableEq, Repr

/-- Why a word is not a command: the three cases of R78. All three are handled alike by 60_exceptions.md R221; the name is
not observable (log 9). -/
inductive DecodeError where
  /-- R78(a): the opcode is not in the map of R76. -/
  | reservedOpcode
  /-- R78(b): a listed opcode and a 1 in bit 23, 19, 15 or 11:6. -/
  | reservedBit
  /-- R78(c): a listed opcode and a nonzero field that its format does not use. -/
  | unusedField
  deriving DecidableEq, Repr

/-- The bits whose value a format fixes (the mask column of R72). -/
def Format.mask : Format → Cmd
  | .n   => 0xFFFFFFFF#32
  | .d   => 0xFF8FFFFF#32
  | .ds  => 0xFF88FFFF#32
  | .s   => 0xFFF8FFFF#32
  | .dss => 0xFF888FFF#32
  | .ss  => 0xFFF88FFF#32
  | .dsh => 0xFF88FFC0#32

/-- The bits reserved in every format: 23, 19, 15 and 11:6 (R71). -/
def reservedBits : Cmd := 0x00888FC0#32

/-- `cmd[31:24]` (R71). -/
def opcodeField (w : Cmd) : Nat := (w.extractLsb' 24 8).toNat

/-- `cmd[22:20]` (R71, R73). -/
def rdField (w : Cmd) : Reg := (w.extractLsb' 20 3).toFin

/-- `cmd[18:16]` (R71, R73). -/
def rs1Field (w : Cmd) : Reg := (w.extractLsb' 16 3).toFin

/-- `cmd[14:12]` (R71, R73). -/
def rs2Field (w : Cmd) : Reg := (w.extractLsb' 12 3).toFin

/-- `cmd[5:0]`, zero-extended (R71, R74). -/
def shField (w : Cmd) : Nat := (w.extractLsb' 0 6).toNat

/-- The row of R76 that the opcode selects: its format, and its command with the operands of the word. -/
def rowOf (w : Cmd) : Option (Format × Instr) :=
  match opcodeField w with
  | 0x00 => some (.n, .nop)
  | 0x01 => some (.d, .zero (rdField w))
  | 0x02 => some (.ds, .mov (rdField w) (rs1Field w))
  | 0x03 => some (.d, .cvts (rdField w))
  | 0x04 => some (.d, .cvtd (rdField w))
  | 0x05 => some (.d, .ldraw (rdField w))
  | 0x06 => some (.s, .rd (rs1Field w))
  | 0x07 => some (.n, .clrst)
  | 0x10 => some (.dss, .add (rdField w) (rs1Field w) (rs2Field w))
  | 0x11 => some (.dss, .sub (rdField w) (rs1Field w) (rs2Field w))
  | 0x12 => some (.ds, .inc (rdField w) (rs1Field w))
  | 0x13 => some (.ds, .dec (rdField w) (rs1Field w))
  | 0x18 => some (.dsh, .shl (rdField w) (rs1Field w) (shField w))
  | 0x19 => some (.dsh, .shr (rdField w) (rs1Field w) (shField w))
  | 0x20 => some (.dss, .mul (rdField w) (rs1Field w) (rs2Field w))
  | 0x21 => some (.dss, .div (rdField w) (rs1Field w) (rs2Field w))
  | 0x30 => some (.ss, .ceq (rs1Field w) (rs2Field w))
  | 0x31 => some (.ss, .cne (rs1Field w) (rs2Field w))
  | 0x32 => some (.ss, .clt (rs1Field w) (rs2Field w))
  | 0x33 => some (.ss, .cle (rs1Field w) (rs2Field w))
  | 0x34 => some (.ss, .cgt (rs1Field w) (rs2Field w))
  | 0x35 => some (.ss, .cge (rs1Field w) (rs2Field w))
  | _ => none

/-- R77: a word is a command when `(cmd & mask) = OPC << 24` for the row of its opcode. -/
def decode (w : Cmd) : Except DecodeError Instr :=
  match rowOf w with
  | none => .error .reservedOpcode
  | some (f, i) =>
    if w &&& f.mask = BitVec.ofNat 32 (opcodeField w) <<< 24 then .ok i
    else if w &&& reservedBits = 0#32 then .error .unusedField
    else .error .reservedBit

/-- The instruction that the decoder reads from a word numbered as spec/opcode_table.json numbers it. A command is always
one 32-bit word (R70): bits above `nbits` are 0, and a longer word is no command. -/
def decodeTableWord (nbits w : Nat) : Option Instr :=
  if w % 2 ^ nbits < 2 ^ 32 then
    match decode (BitVec.ofNat 32 (w % 2 ^ nbits)) with
    | .ok i => some i
    | .error _ => none
  else none

/-- The opcode of a command (R76). -/
def Instr.opcode : Instr → Nat
  | .nop => 0x00
  | .zero _ => 0x01
  | .mov _ _ => 0x02
  | .cvts _ => 0x03
  | .cvtd _ => 0x04
  | .ldraw _ => 0x05
  | .rd _ => 0x06
  | .clrst => 0x07
  | .add _ _ _ => 0x10
  | .sub _ _ _ => 0x11
  | .inc _ _ => 0x12
  | .dec _ _ => 0x13
  | .shl _ _ _ => 0x18
  | .shr _ _ _ => 0x19
  | .mul _ _ _ => 0x20
  | .div _ _ _ => 0x21
  | .ceq _ _ => 0x30
  | .cne _ _ => 0x31
  | .clt _ _ => 0x32
  | .cle _ _ => 0x33
  | .cgt _ _ => 0x34
  | .cge _ _ => 0x35

/-- The format of a command (R76). -/
def Instr.format : Instr → Format
  | .nop => .n
  | .zero _ => .d
  | .mov _ _ => .ds
  | .cvts _ => .d
  | .cvtd _ => .d
  | .ldraw _ => .d
  | .rd _ => .s
  | .clrst => .n
  | .add _ _ _ => .dss
  | .sub _ _ _ => .dss
  | .inc _ _ => .ds
  | .dec _ _ => .ds
  | .shl _ _ _ => .dsh
  | .shr _ _ _ => .dsh
  | .mul _ _ _ => .dss
  | .div _ _ _ => .dss
  | .ceq _ _ => .ss
  | .cne _ _ => .ss
  | .clt _ _ => .ss
  | .cle _ _ => .ss
  | .cgt _ _ => .ss
  | .cge _ _ => .ss

/-- `OPC << 24 | RD << 20 | RS1 << 16 | RS2 << 12 | SH` (R71), each operand a number that fits its field. -/
def packWord (opc rd rs1 rs2 sh : Nat) : Cmd :=
  BitVec.ofNat 32 opc <<< 24 ||| BitVec.ofNat 32 rd <<< 20 ||| BitVec.ofNat 32 rs1 <<< 16
    ||| BitVec.ofNat 32 rs2 <<< 12 ||| BitVec.ofNat 32 sh

/-- The word of a well-formed command: a field the format does not use is 0 (R72). -/
def encode (i : Instr) : Cmd :=
  match i with
  | .nop => packWord i.opcode 0 0 0 0
  | .zero rd => packWord i.opcode rd 0 0 0
  | .mov rd rs1 => packWord i.opcode rd rs1 0 0
  | .cvts rd => packWord i.opcode rd 0 0 0
  | .cvtd rd => packWord i.opcode rd 0 0 0
  | .ldraw rd => packWord i.opcode rd 0 0 0
  | .rd rs1 => packWord i.opcode 0 rs1 0 0
  | .clrst => packWord i.opcode 0 0 0 0
  | .add rd rs1 rs2 => packWord i.opcode rd rs1 rs2 0
  | .sub rd rs1 rs2 => packWord i.opcode rd rs1 rs2 0
  | .inc rd rs1 => packWord i.opcode rd rs1 0 0
  | .dec rd rs1 => packWord i.opcode rd rs1 0 0
  | .shl rd rs1 sh => packWord i.opcode rd rs1 0 sh
  | .shr rd rs1 sh => packWord i.opcode rd rs1 0 sh
  | .mul rd rs1 rs2 => packWord i.opcode rd rs1 rs2 0
  | .div rd rs1 rs2 => packWord i.opcode rd rs1 rs2 0
  | .ceq rs1 rs2 => packWord i.opcode 0 rs1 rs2 0
  | .cne rs1 rs2 => packWord i.opcode 0 rs1 rs2 0
  | .clt rs1 rs2 => packWord i.opcode 0 rs1 rs2 0
  | .cle rs1 rs2 => packWord i.opcode 0 rs1 rs2 0
  | .cgt rs1 rs2 => packWord i.opcode 0 rs1 rs2 0
  | .cge rs1 rs2 => packWord i.opcode 0 rs1 rs2 0

end Sys2Proof
end

