-- ==== Sys2Proof/Config.lean ====
section
/-! DEFINITION. The parameters of one instance of CORE (spec 00_scope.md R3, R6 to R9, R11, R31). They are fixed when the
instance is built; an illegal configuration cannot be built. -/

namespace Sys2Proof

/-- The legal storage widths (R6). -/
inductive Width where
  | w8 | w16 | w32 | w64
  deriving DecidableEq, Repr

/-- The width in bits. -/
def Width.bits : Width → Nat
  | .w8 => 8
  | .w16 => 16
  | .w32 => 32
  | .w64 => 64

/-- A width given as a number: only 8, 16, 32 and 64 are legal (R6). -/
def Width.ofBits (w : Nat) : Option Width :=
  if w = 8 then some .w8
  else if w = 16 then some .w16
  else if w = 32 then some .w32
  else if w = 64 then some .w64
  else none

/-- One instance's parameters (R6) and its command latencies (R11). `waits` has one entry for each row of the opcode
table, in the table's order: `LAT(op) - 1`, so that `LAT(op) >= 1` whatever the entry. The field `legal` is R7: no
configuration without it exists. -/
structure Config where
  width  : Width
  signed : Bool
  ibits  : Nat
  fbits  : Nat
  waits  : Vector Nat 22
  legal  : ibits + fbits ≤ width.bits
  deriving DecidableEq, Repr

/-- `W` (R6). -/
abbrev Config.bits (c : Config) : Nat := c.width.bits

/-- The scale `2^F` (R8). -/
def Config.scale (c : Config) : Nat := 2 ^ c.fbits

/-- Building an instance from the four parameters (R6, R7): `F` defaults to `W - I` when it is not given, and an illegal
configuration is refused. -/
def Config.build (w : Nat) (signed : Bool) (ibits : Nat) (fbits : Option Nat) (waits : Vector Nat 22) : Option Config :=
  match Width.ofBits w with
  | none => none
  | some width =>
    let f := fbits.getD (w - ibits)
    if h : ibits + f ≤ width.bits then some ⟨width, signed, ibits, f, waits, h⟩ else none

/-- The default instance `FXP16S.I8.F8` (R9). Every latency is 1: the spec leaves LAT open (DESIGN CHOICE, log 3). -/
def Config.default : Config where
  width := .w16
  signed := true
  ibits := 8
  fbits := 8
  waits := Vector.replicate 22 0
  legal := by decide

/-- The configuration string `FXP<W><S|U>.I<I>.F<F>` (R3). -/
def Config.name (c : Config) : String :=
  "FXP" ++ toString c.bits ++ (if c.signed then "S" else "U") ++ ".I" ++ toString c.ibits ++ ".F" ++ toString c.fbits

end Sys2Proof
end

