-- ==== Sys2Proof/Machine/Arith.lean ====
section
/-! DEFINITION. The number primitives of the spec: reading a pattern as an integer, reducing an integer to a pattern,
truncating division and rounding (spec 00_scope.md R13, R14). -/

namespace Sys2Proof.Machine

/-- `uint(x)`: the unsigned value of a pattern (R13). -/
def uint (x : Word) : Int := x.toNat

/-- `sint(x)`: the two's complement value of a pattern of `W` bits, whose sign is bit `W-1` (R13). -/
def sint (c : Config) (x : Word) : Int :=
  if x.getLsbD (c.bits - 1) then uint x - (2 ^ c.bits : Nat) else uint x

/-- `val(x)`: the value as the instance's storage type reads it (R13). -/
def val (c : Config) (x : Word) : Int := if c.signed then sint c x else uint x

/-- `wrap(n)`: the pattern `p` of `W` bits with `uint(p) = n mod 2^W` (R13). -/
def wrap (c : Config) (n : Int) : Word := BitVec.ofNat 64 (n % (2 ^ c.bits : Nat)).toNat

/-- `zext_N(v)` (R13). -/
def zext {m : Nat} (n : Nat) (v : BitVec m) : BitVec n := v.setWidth n

/-- `sext_N(v)` (R13). The spec defines it and no command uses it. -/
def sext {m : Nat} (n : Nat) (v : BitVec m) : BitVec n := v.signExtend n

/-- `tdiv(n, d)`: the quotient truncated toward zero, for `d` not 0 (R14). -/
def tdiv (n d : Int) : Int := n.sign * d.sign * (n.natAbs / d.natAbs : Nat)

/-- `rhaz(r)`: round half away from zero, of an exact rational (R14, R12). -/
def rhaz (r : ℚ) : Int := if 0 ≤ r then ⌊r + 1 / 2⌋ else -⌊-r + 1 / 2⌋

end Sys2Proof.Machine
end

