-- ==== Sys2Proof/Machine/State.lean ====
section
/-! DEFINITION. The state of CORE as plain data (spec 10_state.md R20 to R32, 20_memory.md R50, 70_reset_and_hazards.md R240
to R243), its value after reset, and the reasons a step can stop. -/

namespace Sys2Proof.Machine

/-- What CORE samples on its input ports at one rising edge of `clk` (R50, R243(a)). -/
structure PortIn where
  rst      : Bool
  cmdValid : Bool
  cmd      : Cmd
  data     : Data
  deriving DecidableEq, Repr

/-- The sample of an edge at which the host presents nothing (R233). -/
def PortIn.idle : PortIn := ⟨false, false, 0#32, 0#64⟩

/-- A command that is accepted but not finished (R30): its word, and how many edges remain up to and including its
completion edge (R243(b)). -/
structure InFlight where
  cmd  : Cmd
  left : Nat
  deriving DecidableEq, Repr

/-- Everything the spec gives CORE. -/
structure State where
  /-- The instance's parameters (R6, R11): constant (R31); the CONFIG register is computed from them (R27). -/
  cfg : Config
  /-- `V0` to `V7` (R21). -/
  v : Vector Word 8
  /-- The predicate bit `P` (R24). -/
  p : Bool
  /-- The result register `RES` (R28). -/
  res : Word
  /-- The status register `STATUS`: ILL in bit 0, DZ in bit 1, NV in bit 2 (R25). -/
  status : BitVec 3
  /-- `DATA`, the operand sampled with the current command (R16, R243(a)). -/
  data : Data
  /-- The command in flight (R30). -/
  inFlight : Option InFlight
  /-- `cmd_ready` as the last edge left it (R243(c), R240). -/
  ready : Bool
  /-- `done` as the last edge left it (R243(d)). -/
  done : Bool
  /-- What the host will present, one sample an edge, the next edge first (the model's own field, log 4). -/
  inputs : List PortIn
  deriving DecidableEq, Repr

/-- A reason to stop. There is none: "CORE never traps, interrupts, aborts or stalls because of a value" (R220). Nobody
raises a fault, which is exact, neither safe nor unsafe. -/
inductive Fault where
  deriving DecidableEq, Repr

/-- A reason to give an instruction no meaning. -/
inductive Refusal where
  /-- Raised by `exec` alone, for an instruction that has no meaning in the model yet. It is safe: nothing can be proved
  of a step that is refused. No arm of this model raises it. -/
  | notModelled (mnemonic : String)
  deriving DecidableEq, Repr

/-- An instance right after reset, idle and ready, with nothing presented (R32, R241). -/
def State.resetOf (c : Config) : State where
  cfg := c
  v := Vector.replicate 8 0#64
  p := false
  res := 0#64
  status := 0b000#3
  data := 0#64
  inFlight := none
  ready := true
  done := false
  inputs := []

/-- The default instance right after reset (R9, R32). -/
def State.reset : State := State.resetOf Config.default

end Sys2Proof.Machine
end

