-- ==== Sys2Proof/Machine/Operands.lean ====
section
/-! DEFINITION. The operand forms: a source register, the three readings of DATA, and the decoding of a binary32 or binary64
pattern into an exact rational (spec 30_encoding.md R73 to R75, 20_memory.md R52, 00_scope.md R15, R16). -/

namespace Sys2Proof.Machine

/-- `V[i]`, read (R16). -/
abbrev readV (s : State) (i : Reg) : Word := s.v[i]

/-- `DATA[31:0]`, the operand of CVTS (R52, R75). -/
def dataSingle (s : State) : BitVec 32 := s.data.extractLsb' 0 32

/-- `DATA[63:0]`, the operand of CVTD (R52, R75). -/
def dataDouble (s : State) : BitVec 64 := s.data

/-- `DATA[W-1:0]`, the operand of LDRAW, in its container (R52, R75). -/
def dataRaw (s : State) : Word := zext 64 (s.data.extractLsb' 0 s.cfg.bits)

/-- A decoded floating-point input: an exact real, an infinity or NaN (R15). -/
inductive FpValue where
  | nan
  | inf (negative : Bool)
  | real (x : ℚ)
  deriving DecidableEq, Repr

/-- The common shape of the two layouts of R15: a sign, an exponent field `e` whose greatest value is `eMax`, a fraction
field `m` of `mBits` bits, and the exponent `bias` that makes the significand an integer. -/
def fpDecode (eMax mBits : Nat) (bias : Int) (negative : Bool) (e m : Nat) : FpValue :=
  let sign : ℚ := if negative then -1 else 1
  if e = eMax then (if m = 0 then .inf negative else .nan)
  else if e = 0 then .real (sign * m * 2 ^ (1 - bias))
  else .real (sign * (2 ^ mBits + m : Nat) * 2 ^ (e - bias))

/-- `fpval32(b)` (R15; IEEE 754 binary32, log 11). -/
def fpval32 (b : BitVec 32) : FpValue :=
  fpDecode 0xFF 23 150 (b.getLsbD 31) (b.extractLsb' 23 8).toNat (b.extractLsb' 0 23).toNat

/-- `fpval64(b)` (R15; IEEE 754 binary64, log 11). -/
def fpval64 (b : BitVec 64) : FpValue :=
  fpDecode 0x7FF 52 1075 (b.getLsbD 63) (b.extractLsb' 52 11).toNat (b.extractLsb' 0 52).toNat

end Sys2Proof.Machine
end

