-- ==== Sys2Proof/Machine/Flags.lean ====
section
/-! DEFINITION. The status bits and their events, and the predicate computations (spec 10_state.md R24 to R26,
60_exceptions.md R221, 42_compare.md R140 to R146). CORE keeps no carry, overflow, zero or sign flag (R26). -/

namespace Sys2Proof.Machine

/-- The status events (R221). -/
inductive Event where
  | ill | dz | nv
  deriving DecidableEq, Repr

/-- An event's cause code, which is its bit of STATUS (R25, R221). -/
def Event.code : Event → Nat
  | .ill => 0
  | .dz => 1
  | .nv => 2

/-- STATUS with an event's bit set and the others kept (R25). -/
def setFlag (status : BitVec 3) (e : Event) : BitVec 3 := status ||| 1#3 <<< e.code

/-- Whether an event's bit of STATUS is set (R25). -/
def flagSet (status : BitVec 3) (e : Event) : Bool := status.getLsbD e.code

/-- `x = y` as `B` values (R140, R141). -/
def predEq (c : Config) (x y : Word) : Bool := decide (val c x = val c y)

/-- `x != y` as `B` values (R140, R142). -/
def predNe (c : Config) (x y : Word) : Bool := decide (val c x ≠ val c y)

/-- `x < y` as `B` values (R140, R143). -/
def predLt (c : Config) (x y : Word) : Bool := decide (val c x < val c y)

/-- `x <= y` as `B` values (R140, R144). -/
def predLe (c : Config) (x y : Word) : Bool := decide (val c x ≤ val c y)

/-- `x > y` as `B` values (R140, R145). -/
def predGt (c : Config) (x y : Word) : Bool := decide (val c x > val c y)

/-- `x >= y` as `B` values (R140, R146). -/
def predGe (c : Config) (x y : Word) : Bool := decide (val c x ≥ val c y)

end Sys2Proof.Machine
end

