-- ==== Sys2Proof/Machine/Ops.lean ====
section
/-! DEFINITION. The shared operations that write state: registers, the predicate, and the status events, which stand in the
place of exceptions (spec 00_scope.md R16, 10_state.md R24 to R28, 60_exceptions.md R221, R225, R226). Each changes what
its name says and nothing else (R17). CORE has no memory (R51), so there is no operation over memory. -/

namespace Sys2Proof.Machine

/-- `V[i] <- x` (R16). -/
def writeV (s : State) (i : Reg) (x : Word) : State := { s with v := s.v.set i x }

/-- `RES <- x` (R16, R28). -/
def writeRes (s : State) (x : Word) : State := { s with res := x }

/-- `V[rd] <- x; RES <- x`: every command that writes a value register writes RES with the same value (R28). -/
def writeResult (s : State) (rd : Reg) (x : Word) : State := writeRes (writeV s rd x) x

/-- `P <- b` (R16, R24). -/
def writeP (s : State) (b : Bool) : State := { s with p := b }

/-- A status event is taken: its sticky bit is set, and that is all. No state is saved, no mode changes and control goes
nowhere (R221, R225). -/
def raiseEvent (s : State) (e : Event) : State := { s with status := setFlag s.status e }

/-- Leaving the status events behind, the counterpart of a return (R226): `STATUS <- 0b000` (R204). -/
def clearStatus (s : State) : State := { s with status := 0b000#3 }

/-- Every element at its reset value (R32, R240). CONFIG is a constant, and the host's samples are not CORE's. -/
def resetElements (s : State) : State := { State.resetOf s.cfg with inputs := s.inputs }

/-- The CONFIG register: WIDTH in bits 7:0, IBITS in 15:8, FBITS in 23:16, SIGNED in bit 24, 0 above (R27). -/
def configWord (c : Config) : BitVec 32 :=
  BitVec.ofNat 32 c.bits ||| BitVec.ofNat 32 c.ibits <<< 8 ||| BitVec.ofNat 32 c.fbits <<< 16
    ||| BitVec.ofNat 32 c.signed.toNat <<< 24

end Sys2Proof.Machine
end

