-- ==== Sys2Proof/Machine/AddSub.lean ====
section
/-! DEFINITION. The adder/subtractor family: ADD, SUB, INC, DEC (spec 41_addsub.md R120 to R123). -/

namespace Sys2Proof.Machine

/-- ADD rd, rs1, rs2 (R120). -/
def execAdd (rd rs1 rs2 : Reg) (s : State) : Host.Outcome State Fault Refusal :=
  .next (writeResult s rd (wrap s.cfg (uint (readV s rs1) + uint (readV s rs2))))

/-- SUB rd, rs1, rs2 (R121). -/
def execSub (rd rs1 rs2 : Reg) (s : State) : Host.Outcome State Fault Refusal :=
  .next (writeResult s rd (wrap s.cfg (uint (readV s rs1) - uint (readV s rs2))))

/-- INC rd, rs1: one unit, `2^F`, is added modulo `2^W` (R122). -/
def execInc (rd rs1 : Reg) (s : State) : Host.Outcome State Fault Refusal :=
  .next (writeResult s rd (wrap s.cfg (uint (readV s rs1) + s.cfg.scale)))

/-- DEC rd, rs1: one unit, `2^F`, is subtracted modulo `2^W` (R123). -/
def execDec (rd rs1 : Reg) (s : State) : Host.Outcome State Fault Refusal :=
  .next (writeResult s rd (wrap s.cfg (uint (readV s rs1) - s.cfg.scale)))

end Sys2Proof.Machine
end

