-- ==== Sys2Proof/Machine/Compare.lean ====
section
/-! DEFINITION. The comparator family: CEQ, CNE, CLT, CLE, CGT, CGE. Each writes P and nothing else (spec 42_compare.md R140
to R146). -/

namespace Sys2Proof.Machine

/-- CEQ rs1, rs2 (R141). -/
def execCeq (rs1 rs2 : Reg) (s : State) : Host.Outcome State Fault Refusal :=
  .next (writeP s (predEq s.cfg (readV s rs1) (readV s rs2)))

/-- CNE rs1, rs2 (R142). -/
def execCne (rs1 rs2 : Reg) (s : State) : Host.Outcome State Fault Refusal :=
  .next (writeP s (predNe s.cfg (readV s rs1) (readV s rs2)))

/-- CLT rs1, rs2 (R143). -/
def execClt (rs1 rs2 : Reg) (s : State) : Host.Outcome State Fault Refusal :=
  .next (writeP s (predLt s.cfg (readV s rs1) (readV s rs2)))

/-- CLE rs1, rs2 (R144). -/
def execCle (rs1 rs2 : Reg) (s : State) : Host.Outcome State Fault Refusal :=
  .next (writeP s (predLe s.cfg (readV s rs1) (readV s rs2)))

/-- CGT rs1, rs2 (R145). -/
def execCgt (rs1 rs2 : Reg) (s : State) : Host.Outcome State Fault Refusal :=
  .next (writeP s (predGt s.cfg (readV s rs1) (readV s rs2)))

/-- CGE rs1, rs2 (R146). -/
def execCge (rs1 rs2 : Reg) (s : State) : Host.Outcome State Fault Refusal :=
  .next (writeP s (predGe s.cfg (readV s rs1) (readV s rs2)))

end Sys2Proof.Machine
end

