-- ==== Sys2Proof/Machine/Construction.lean ====
section
/-! DEFINITION. The construction family: ZERO, CVTS, CVTD and the conversion function (spec 40_construction.md R100 to
R104). -/

namespace Sys2Proof.Machine

/-- `conv(x)`: the pattern and the invalid indication. The evaluation is exact (R100, R104); a result out of range wraps
(90_conflicts.md C1). -/
def conv (c : Config) : FpValue → Word × Bool
  | .nan => (0#64, true)
  | .inf _ => (0#64, true)
  | .real x => (wrap c (rhaz (x * 2 ^ c.fbits)), false)

/-- Writes a conversion's pattern, and takes the NV event when the input was invalid (R102, R103). -/
def writeConversion (s : State) (rd : Reg) (x : FpValue) : State :=
  let (pattern, invalid) := conv s.cfg x
  let t := writeResult s rd pattern
  if invalid then raiseEvent t .nv else t

/-- ZERO rd (R101). -/
def execZero (rd : Reg) (s : State) : Host.Outcome State Fault Refusal :=
  .next (writeResult s rd 0#64)

/-- CVTS rd (R102). -/
def execCvts (rd : Reg) (s : State) : Host.Outcome State Fault Refusal :=
  .next (writeConversion s rd (fpval32 (dataSingle s)))

/-- CVTD rd (R103). -/
def execCvtd (rd : Reg) (s : State) : Host.Outcome State Fault Refusal :=
  .next (writeConversion s rd (fpval64 (dataDouble s)))

end Sys2Proof.Machine
end

