-- ==== Sys2Proof/Machine/Interface.lean ====
section
/-! DEFINITION. The copy, transfer and control commands: NOP, MOV, LDRAW, RD, CLRST (spec 45_interface.md R200 to R204). -/

namespace Sys2Proof.Machine

/-- NOP (R200). -/
def execNop (s : State) : Host.Outcome State Fault Refusal := .next s

/-- MOV rd, rs1 (R201). -/
def execMov (rd rs1 : Reg) (s : State) : Host.Outcome State Fault Refusal :=
  .next (writeResult s rd (readV s rs1))

/-- LDRAW rd (R202). -/
def execLdraw (rd : Reg) (s : State) : Host.Outcome State Fault Refusal :=
  .next (writeResult s rd (dataRaw s))

/-- RD rs1: the one command that writes RES without writing a value register (R203). -/
def execRd (rs1 : Reg) (s : State) : Host.Outcome State Fault Refusal :=
  .next (writeRes s (readV s rs1))

/-- CLRST: the one command that clears a STATUS bit (R204). -/
def execClrst (s : State) : Host.Outcome State Fault Refusal := .next (clearStatus s)

end Sys2Proof.Machine
end

