-- ==== Sys2Proof/Machine/MulDiv.lean ====
section
/-! DEFINITION. The multiplier and divider: MUL, DIV, with the exact intermediate and truncation toward zero (spec
44_muldiv.md R180, R181; 90_conflicts.md C4, C5). -/

namespace Sys2Proof.Machine

/-- MUL rd, rs1, rs2 (R180). -/
def execMul (rd rs1 rs2 : Reg) (s : State) : Host.Outcome State Fault Refusal :=
  .next (writeResult s rd
    (wrap s.cfg (tdiv (val s.cfg (readV s rs1) * val s.cfg (readV s rs2)) s.cfg.scale)))

/-- DIV rd, rs1, rs2: a zero divisor gives all ones and the DZ event (R181). -/
def execDiv (rd rs1 rs2 : Reg) (s : State) : Host.Outcome State Fault Refusal :=
  let a := val s.cfg (readV s rs1)
  let b := val s.cfg (readV s rs2)
  if b = 0 then .next (raiseEvent (writeResult s rd (wrap s.cfg (-1))) .dz)
  else .next (writeResult s rd (wrap s.cfg (tdiv (a * s.cfg.scale) b)))

end Sys2Proof.Machine
end

