-- ==== Sys2Proof/Machine/Shift.lean ====
section
/-! DEFINITION. The shifter family: SHL, SHR. Every count has a result (spec 43_shift.md R160, R161). -/

namespace Sys2Proof.Machine

/-- SHL rd, rs1, sh (R160). -/
def execShl (rd rs1 : Reg) (sh : Nat) (s : State) : Host.Outcome State Fault Refusal :=
  .next (writeResult s rd (wrap s.cfg (uint (readV s rs1) * (2 ^ sh : Nat))))

/-- SHR rd, rs1, sh: the floor of the value divided by `2^sh`, arithmetic for signed storage and logical for unsigned
(R161). -/
def execShr (rd rs1 : Reg) (sh : Nat) (s : State) : Host.Outcome State Fault Refusal :=
  .next (writeResult s rd (wrap s.cfg (Int.fdiv (val s.cfg (readV s rs1)) (2 ^ sh : Nat))))

end Sys2Proof.Machine
end

