-- ==== Sys2Proof/Machine/Dispatch.lean ====
section
/-! DEFINITION. The effect of each command on the state, one arm per constructor of Instr (spec 30_encoding.md R76). -/

namespace Sys2Proof.Machine

def exec (i : Instr) (s : State) : Host.Outcome State Fault Refusal :=
  match i with
  | .nop => Sys2Proof.Machine.execNop s
  | .zero rd => Sys2Proof.Machine.execZero rd s
  | .mov rd rs1 => Sys2Proof.Machine.execMov rd rs1 s
  | .cvts rd => Sys2Proof.Machine.execCvts rd s
  | .cvtd rd => Sys2Proof.Machine.execCvtd rd s
  | .ldraw rd => Sys2Proof.Machine.execLdraw rd s
  | .rd rs1 => Sys2Proof.Machine.execRd rs1 s
  | .clrst => Sys2Proof.Machine.execClrst s
  | .add rd rs1 rs2 => Sys2Proof.Machine.execAdd rd rs1 rs2 s
  | .sub rd rs1 rs2 => Sys2Proof.Machine.execSub rd rs1 rs2 s
  | .inc rd rs1 => Sys2Proof.Machine.execInc rd rs1 s
  | .dec rd rs1 => Sys2Proof.Machine.execDec rd rs1 s
  | .shl rd rs1 sh => Sys2Proof.Machine.execShl rd rs1 sh s
  | .shr rd rs1 sh => Sys2Proof.Machine.execShr rd rs1 sh s
  | .mul rd rs1 rs2 => Sys2Proof.Machine.execMul rd rs1 rs2 s
  | .div rd rs1 rs2 => Sys2Proof.Machine.execDiv rd rs1 rs2 s
  | .ceq rs1 rs2 => Sys2Proof.Machine.execCeq rs1 rs2 s
  | .cne rs1 rs2 => Sys2Proof.Machine.execCne rs1 rs2 s
  | .clt rs1 rs2 => Sys2Proof.Machine.execClt rs1 rs2 s
  | .cle rs1 rs2 => Sys2Proof.Machine.execCle rs1 rs2 s
  | .cgt rs1 rs2 => Sys2Proof.Machine.execCgt rs1 rs2 s
  | .cge rs1 rs2 => Sys2Proof.Machine.execCge rs1 rs2 s

end Sys2Proof.Machine
end

