-- ==== Sys2Proof/Machine/Handshake.lean ====
section
/-! DEFINITION. One rising edge of `clk`: reset, acceptance, the wait of LAT(op) edges, completion (spec
70_reset_and_hazards.md R240 to R245), and a command as one indivisible step (00_scope.md R17). -/

namespace Sys2Proof.Machine

/-- A command's row of spec/opcode_table.json, which indexes its latency. -/
def tableRow : Instr → Fin 22
  | .nop => 0
  | .zero _ => 1
  | .mov _ _ => 2
  | .cvts _ => 3
  | .cvtd _ => 4
  | .ldraw _ => 5
  | .rd _ => 6
  | .clrst => 7
  | .add _ _ _ => 8
  | .sub _ _ _ => 9
  | .inc _ _ => 10
  | .dec _ _ => 11
  | .shl _ _ _ => 12
  | .shr _ _ _ => 13
  | .mul _ _ _ => 14
  | .div _ _ _ => 15
  | .ceq _ _ => 16
  | .cne _ _ => 17
  | .clt _ _ => 18
  | .cle _ _ => 19
  | .cgt _ _ => 20
  | .cge _ _ => 21

/-- `LAT(op)`, at least 1 (R11, R245). -/
def latencyOf (c : Config) (i : Instr) : Nat := c.waits[tableRow i] + 1

/-- The latency of a command word: an illegal word takes 1 cycle (R243(b)). -/
def latency (c : Config) (w : Cmd) : Nat :=
  match decode w with
  | .ok i => latencyOf c i
  | .error _ => 1

/-- A command word as one indivisible step: it is decoded, and its command's effect happens, or the ILL event if it is
illegal (R17, R77, R221). The data operand is the state's `data`. -/
def runWord (w : Cmd) (s : State) : Host.Outcome State Fault Refusal :=
  match decode w with
  | .ok i => exec i s
  | .error _ => .next (raiseEvent s .ill)

/-- What the ports show at the next edge; nothing is presented when the host's list has ended (R233; log 4). -/
def portIn (s : State) : PortIn := s.inputs.head?.getD PortIn.idle

/-- The state once an edge has taken its sample. -/
def takeSample (s : State) : State := { s with inputs := s.inputs.tail }

/-- A command is accepted at an edge where `rst = 0`, `cmd_valid = 1` and `cmd_ready = 1` (R243(a)). CORE is never ready
with a command in flight (R243(c)). -/
def accepts (s : State) : Bool :=
  !(portIn s).rst && (portIn s).cmdValid && s.ready && s.inFlight.isNone

/-- An edge at which `rst = 1`: every element takes its reset value, a command in flight is abandoned, and CORE is not yet
ready (R240; log 5). -/
def resetEdge (s : State) : State := { resetElements s with ready := false }

/-- An edge at which nothing is accepted and nothing is in flight: CORE is ready from it on (R241, R243(c), (d)). -/
def idleEdge (s : State) : State := { s with ready := true, done := false }

/-- An edge of a command in flight that does not complete it (R243(c), (d)). -/
def waitEdge (s : State) (w : Cmd) (left : Nat) : State :=
  { s with inFlight := some ⟨w, left⟩, ready := false, done := false }

/-- CORE once a command has completed: ready, and `done` is raised (R243(c), (d)). -/
def finish (s : State) : State := { s with inFlight := none, ready := true, done := true }

/-- The completion edge of a command word: it writes everything its rule writes, all at once (R243(b), R54). -/
def completeEdge (w : Cmd) (s : State) : Host.Outcome State Fault Refusal := runWord w (finish s)

/-- The edge that accepts a command: `cmd` and `data` are sampled, and a command of latency 1 completes at once
(R243(a), (b)). -/
def acceptEdge (w : Cmd) (d : Data) (s : State) : Host.Outcome State Fault Refusal :=
  let t := { s with data := d }
  if latency s.cfg w = 1 then completeEdge w t else .next (waitEdge t w (latency s.cfg w - 1))

/-- An edge at which `rst = 0` (R243). -/
def runEdge (x : PortIn) (s : State) : Host.Outcome State Fault Refusal :=
  match s.inFlight with
  | some f => if f.left ≤ 1 then completeEdge f.cmd s else .next (waitEdge s f.cmd (f.left - 1))
  | none => if x.cmdValid && s.ready then acceptEdge x.cmd x.data s else .next (idleEdge s)

/-- One rising edge of `clk` with the sample `x` (R240, R243). -/
def clockEdge (x : PortIn) (s : State) : Host.Outcome State Fault Refusal :=
  if x.rst then .next (resetEdge s) else runEdge x s

/-- The state with a command word presented so that the next edge runs it: it is on the port of an idle and ready CORE,
with the operand the state holds; if its latency is above 1, it is in flight and the next edge is its completion edge
(log 8). -/
def presentWord (s : State) (w : Cmd) : State :=
  if latency s.cfg w = 1 then
    { s with inFlight := none, ready := true, inputs := ⟨false, true, w, s.data⟩ :: s.inputs.tail }
  else { s with inFlight := some ⟨w, 1⟩, ready := false, inputs := PortIn.idle :: s.inputs.tail }

/-- Commands one after another, each a word with its data operand and each one indivisible step, in the order they are
accepted (R57). -/
def runCommands : List (Cmd × Data) → State → Host.Outcome State Fault Refusal
  | [], s => .next s
  | (w, d) :: rest, s =>
    match runWord w { s with data := d } with
    | .next t => runCommands rest t
    | .fault r => .fault r
    | .refused r => .refused r

end Sys2Proof.Machine
end

