-- ==== Sys2Proof/Machine/Step.lean ====
section
/-! DEFINITION. One step of the machine is one rising edge of `clk` (spec 20_memory.md R50, 70_reset_and_hazards.md R243). -/

namespace Sys2Proof.Machine

/-- One rising edge: the ports are sampled, and the edge does what the sample asks for. -/
def step (s : State) : Host.Outcome State Fault Refusal := clockEdge (portIn s) (takeSample s)

/-- The state with a command word presented so that the next step runs it. CORE fetches nothing (R60): the command port is
where the next command comes from. A command is one 32-bit word (R70). -/
def State.withFetchWord (s : State) (nbits w : Nat) : State := presentWord s (BitVec.ofNat 32 (w % 2 ^ nbits))

end Sys2Proof.Machine
end

