-- ==== Sys2Proof/Machine/Ports.lean ====
section
/-! DEFINITION. The output ports of CORE: all a host can observe (spec 20_memory.md R50, R54; 60_exceptions.md R232). -/

namespace Sys2Proof.Machine

/-- What CORE drives (R50). -/
structure PortOut where
  cmdReady : Bool
  done     : Bool
  res      : Word
  pred     : Bool
  status   : BitVec 3
  cfg      : BitVec 32
  deriving DecidableEq, Repr

/-- The outputs during the cycle before the next edge. While `rst = 1`, `cmd_ready` and `done` are 0 (R240; log 6). -/
def outputs (s : State) : PortOut where
  cmdReady := s.ready && !(portIn s).rst
  done := s.done && !(portIn s).rst
  res := s.res
  pred := s.p
  status := s.status
  cfg := configWord s.cfg

end Sys2Proof.Machine
end

