-- ==== Sys2Proof/Safety.lean ====
section
/-! DEFINITION. The terms in which claims speak: what a host can see of a state, what an instruction leaves alone, the
invariant of the machine, and the runs that raise no event (spec 20_memory.md R54, R57; 60_exceptions.md R220 to R226). -/

namespace Sys2Proof.Machine

/-- The architectural state: what the command rules read and write (R32, less the command in flight). -/
structure Arch where
  cfg    : Config
  v      : Vector Word 8
  p      : Bool
  res    : Word
  status : BitVec 3
  deriving DecidableEq, Repr

/-- The architectural part of a state. -/
def State.arch (s : State) : Arch := ⟨s.cfg, s.v, s.p, s.res, s.status⟩

/-- `t` differs from `s` at most in `V0` to `V7`, P, RES and STATUS: the handshake, the sampled operand, the parameters and
the host's samples are the same. -/
def SameOutside (s t : State) : Prop :=
  t.cfg = s.cfg ∧ t.data = s.data ∧ t.inFlight = s.inFlight ∧ t.ready = s.ready ∧ t.done = s.done ∧ t.inputs = s.inputs

/-- `t` is `s` with `r` in `V[rd]` and in RES: every other register and P are as they were. STATUS is left to the
statement that uses this. -/
def ResultIn (s t : State) (rd : Reg) (r : Word) : Prop :=
  t.v[rd] = r ∧ t.res = r ∧ (∀ k : Reg, k ≠ rd → t.v[k] = s.v[k]) ∧ t.p = s.p ∧ SameOutside s t

/-- `t` is `s` with `b` in P and nothing else changed. -/
def PredicateIn (s t : State) (b : Bool) : Prop :=
  t.p = b ∧ (∀ k : Reg, t.v[k] = s.v[k]) ∧ t.res = s.res ∧ t.status = s.status ∧ SameOutside s t

/-- A pattern fits the instance's width (R21: "each `W` bits wide"). -/
def FitsWidth (c : Config) (x : Word) : Prop := x.toNat < 2 ^ c.bits

/-- The value registers and RES hold patterns of `W` bits (R21, R28). -/
def State.PatternsFit (s : State) : Prop := (∀ k : Reg, FitsWidth s.cfg s.v[k]) ∧ FitsWidth s.cfg s.res

/-- The invariant of the machine: every pattern fits (R21, R28), and a command in flight has edges left, fewer than its
latency, while CORE is neither ready nor done (R243(b), (c), (d)). -/
def State.Inv (s : State) : Prop :=
  s.PatternsFit ∧
    ∀ f : InFlight, s.inFlight = some f →
      s.ready = false ∧ s.done = false ∧ 1 ≤ f.left ∧ f.left < latency s.cfg f.cmd

/-- The command word that completes at the next edge, if one does (R243(b)). -/
def completing (s : State) : Option Cmd :=
  if (portIn s).rst then none
  else match s.inFlight with
    | some f => if f.left ≤ 1 then some f.cmd else none
    | none => if accepts s && latency s.cfg (portIn s).cmd == 1 then some (portIn s).cmd else none

/-- The state once the command in flight, if any, has had its effect. -/
def flush (s : State) : State :=
  match s.inFlight with
  | none => s
  | some f =>
    match runWord f.cmd s with
    | .next t => t
    | .fault _ => s
    | .refused _ => s

/-- The commands that the next `k` edges accept, in order, each with the operand sampled with it (R243(a)). -/
def acceptedIn : Nat → State → List (Cmd × Data)
  | 0, _ => []
  | k + 1, s =>
    match step s with
    | .next t => (if accepts s then [((portIn s).cmd, (portIn s).data)] else []) ++ acceptedIn k t
    | .fault _ => []
    | .refused _ => []

/-- None of the next `k` edges samples `rst = 1`. -/
def NoReset (k : Nat) (s : State) : Prop := ∀ x ∈ s.inputs.take k, x.rst = false

/-- The register a command writes, if it writes one (R22). -/
def destOf : Instr → Option Reg
  | .zero rd => some rd
  | .cvts rd => some rd
  | .cvtd rd => some rd
  | .ldraw rd => some rd
  | .mov rd _ => some rd
  | .add rd _ _ => some rd
  | .sub rd _ _ => some rd
  | .inc rd _ => some rd
  | .dec rd _ => some rd
  | .shl rd _ _ => some rd
  | .shr rd _ _ => some rd
  | .mul rd _ _ => some rd
  | .div rd _ _ => some rd
  | .nop => none
  | .rd _ => none
  | .clrst => none
  | .ceq _ _ => none
  | .cne _ _ => none
  | .clt _ _ => none
  | .cle _ _ => none
  | .cgt _ _ => none
  | .cge _ _ => none

/-- The registers a command reads (R22). -/
def sourcesOf : Instr → List Reg
  | .mov _ rs1 => [rs1]
  | .rd rs1 => [rs1]
  | .add _ rs1 rs2 => [rs1, rs2]
  | .sub _ rs1 rs2 => [rs1, rs2]
  | .inc _ rs1 => [rs1]
  | .dec _ rs1 => [rs1]
  | .shl _ rs1 _ => [rs1]
  | .shr _ rs1 _ => [rs1]
  | .mul _ rs1 rs2 => [rs1, rs2]
  | .div _ rs1 rs2 => [rs1, rs2]
  | .ceq rs1 rs2 => [rs1, rs2]
  | .cne rs1 rs2 => [rs1, rs2]
  | .clt rs1 rs2 => [rs1, rs2]
  | .cle rs1 rs2 => [rs1, rs2]
  | .cgt rs1 rs2 => [rs1, rs2]
  | .cge rs1 rs2 => [rs1, rs2]
  | .zero _ => []
  | .cvts _ => []
  | .cvtd _ => []
  | .ldraw _ => []
  | .nop => []
  | .clrst => []

/-- The six compares, the only commands that write P (R24). -/
def isCompare : Instr → Bool
  | .ceq _ _ => true
  | .cne _ _ => true
  | .clt _ _ => true
  | .cle _ _ => true
  | .cgt _ _ => true
  | .cge _ _ => true
  | .nop => false
  | .zero _ => false
  | .mov _ _ => false
  | .cvts _ => false
  | .cvtd _ => false
  | .ldraw _ => false
  | .rd _ => false
  | .clrst => false
  | .add _ _ _ => false
  | .sub _ _ _ => false
  | .inc _ _ => false
  | .dec _ _ => false
  | .shl _ _ _ => false
  | .shr _ _ _ => false
  | .mul _ _ _ => false
  | .div _ _ _ => false

/-- The opcode map of R76, each opcode with the mask of its format (R72). -/
def opcodeMap : List (Nat × Cmd) :=
  [(0x00, 0xFFFFFFFF#32), (0x01, 0xFF8FFFFF#32), (0x02, 0xFF88FFFF#32), (0x03, 0xFF8FFFFF#32),
   (0x04, 0xFF8FFFFF#32), (0x05, 0xFF8FFFFF#32), (0x06, 0xFFF8FFFF#32), (0x07, 0xFFFFFFFF#32)] ++
  [(0x10, 0xFF888FFF#32), (0x11, 0xFF888FFF#32), (0x12, 0xFF88FFFF#32), (0x13, 0xFF88FFFF#32),
   (0x18, 0xFF88FFC0#32), (0x19, 0xFF88FFC0#32), (0x20, 0xFF888FFF#32), (0x21, 0xFF888FFF#32)] ++
  [(0x30, 0xFFF88FFF#32), (0x31, 0xFFF88FFF#32), (0x32, 0xFFF88FFF#32), (0x33, 0xFFF88FFF#32),
   (0x34, 0xFFF88FFF#32), (0x35, 0xFFF88FFF#32)]

/-- The word is a command: a program of such words never raises ILL (R77; 93_implementation_defined.md P2). -/
def legalWord (w : Cmd) : Bool :=
  match decode w with
  | .ok _ => true
  | .error _ => false

/-- A safe run in the sense of 93_implementation_defined.md P2 to P4: no status event happened since the last reset or
CLRST. -/
def State.quiet (s : State) : Bool := s.status == 0b000#3

end Sys2Proof.Machine
end

