-- ==== Sys2Proof/Certificates/Slice0/Obligations.lean ====
section
/-! DEFINITION. The statements about the model, for the provers. -/

open Sys2Proof Sys2Proof.Machine

/-- R32: what reset leaves, in every instance, `State.reset`'s among them. (What R32 does not name, `data`, `done` and
`inputs`, is not in this statement.) -/
def Obligations.ResetStateIsAllZeroIdleReady : Prop :=
  ∀ s : State, (s = State.reset ∨ ∃ c : Config, s = State.resetOf c) →
    (∀ k : Reg, s.v[k] = 0#64) ∧ s.p = false ∧ s.res = 0#64 ∧ s.status = 0b000#3 ∧ s.inFlight = none ∧
      s.ready = true ∧ (outputs s).cfg = configWord s.cfg

/-- R9: the default instance. -/
def Obligations.DefaultInstanceHasTheSourcesParameters : Prop :=
  Config.default.bits = 16 ∧ Config.default.signed = true ∧ Config.default.ibits = 8 ∧ Config.default.fbits = 8 ∧
    Config.default.scale = 256

/-- R6, R7: building an instance succeeds exactly on a legal width with `I + F <= W`, takes the four parameters, and `F`
defaults to `W - I`; no illegal configuration exists. -/
def Obligations.IllegalConfigurationCannotBeBuilt : Prop :=
  (∀ (w : Nat) (signed : Bool) (i : Nat) (f : Option Nat) (waits : Vector Nat 22),
    ((Config.build w signed i f waits).isSome = true ↔
      (w = 8 ∨ w = 16 ∨ w = 32 ∨ w = 64) ∧ i + f.getD (w - i) ≤ w) ∧
    ∀ c : Config, Config.build w signed i f waits = some c →
      c.bits = w ∧ c.signed = signed ∧ c.ibits = i ∧ c.fbits = f.getD (w - i) ∧ c.waits = waits) ∧
  ∀ c : Config, (c.bits = 8 ∨ c.bits = 16 ∨ c.bits = 32 ∨ c.bits = 64) ∧ c.ibits + c.fbits ≤ c.bits

/-- R27: the fields of CONFIG on the `cfg` output, its value for the default instance, and that no step changes it, a
reset edge included. -/
def Obligations.ConfigRegisterReportsTheParameters : Prop :=
  (∀ s : State,
    ((outputs s).cfg.extractLsb' 0 8).toNat = s.cfg.bits ∧ ((outputs s).cfg.extractLsb' 8 8).toNat = s.cfg.ibits ∧
      ((outputs s).cfg.extractLsb' 16 8).toNat = s.cfg.fbits ∧ (outputs s).cfg.getLsbD 24 = s.cfg.signed ∧
      (outputs s).cfg.extractLsb' 25 7 = 0#7) ∧
  configWord Config.default = 0x01080810#32 ∧
  ∀ s t : State, step s = .next t → (outputs t).cfg = (outputs s).cfg

/-- R240: an edge with `rst = 1` resets every element, in the middle of a command too, accepts nothing, and leaves the
parameters; `cmd_ready` and `done` are 0; a further such edge changes nothing more. -/
def Obligations.ResetEdgeAbandonsEverything : Prop :=
  ∀ s : State, (portIn s).rst = true →
    (outputs s).cmdReady = false ∧ (outputs s).done = false ∧ accepts s = false ∧
      ∃ t : State, step s = .next t ∧ (∀ k : Reg, t.v[k] = 0#64) ∧ t.p = false ∧ t.res = 0#64 ∧ t.status = 0b000#3 ∧
        t.inFlight = none ∧ t.done = false ∧ t.cfg = s.cfg ∧ t.inputs = s.inputs.tail ∧
        ((portIn t).rst = true → step t = .next { t with inputs := t.inputs.tail })

/-- R241 with the model's reading of `cmd_ready` across reset (DEDUCED, log 5): the first edge with `rst = 0` after a reset
edge accepts nothing whatever is presented, and leaves CORE idle, ready and in its reset state. -/
def Obligations.FirstEdgeAfterResetMakesCoreReady : Prop :=
  ∀ s t : State, (portIn s).rst = true → step s = .next t → (portIn t).rst = false →
    ∃ u : State, step t = .next u ∧ u.ready = true ∧ u.done = false ∧ u.inFlight = none ∧
      u.arch = (State.resetOf s.cfg).arch

/-- R220: every command and every edge finishes, in every state; and wraparound sets no flag: of the computing commands
only DIV by zero and a conversion of NaN or an infinity changes STATUS, and none changes P. -/
def Obligations.EveryCommandFinishesAndWrapsSilently : Prop :=
  (∀ s : State, ∃ t : State, step s = .next t) ∧
  ∀ (i : Instr) (s : State), ∃ t : State, exec i s = .next t ∧
    ((∃ rd a b, i = .add rd a b ∨ i = .sub rd a b ∨ i = .mul rd a b ∨ (i = .div rd a b ∧ val s.cfg s.v[b] ≠ 0)) ∨
      (∃ rd a, i = .inc rd a ∨ i = .dec rd a) ∨ (∃ rd a sh, i = .shl rd a sh) ∨
      (∃ rd x, (i = .cvts rd ∧ fpval32 (s.data.extractLsb' 0 32) = .real x) ∨ (i = .cvtd rd ∧ fpval64 s.data = .real x)) →
      t.status = s.status ∧ t.p = s.p)

/-- R221: the three status events, each with its effect: an illegal word sets ILL and nothing else changes; DIV by zero gives
all ones and sets DZ; a conversion of NaN or an infinity gives 0 and sets NV. -/
def Obligations.StatusEventsHaveTheirEffects : Prop :=
  (∀ (w : Cmd) (s : State), legalWord w = false →
    runWord w s = .next { s with status := s.status ||| 0b001#3 }) ∧
  (∀ (rd a b : Reg) (s : State), val s.cfg s.v[b] = 0 →
    ∃ (t : State) (r : Word), exec (.div rd a b) s = .next t ∧ ResultIn s t rd r ∧ r.toNat = 2 ^ s.cfg.bits - 1 ∧
      t.status = s.status ||| 0b010#3) ∧
  (∀ (rd : Reg) (s : State), (∀ x : ℚ, fpval32 (s.data.extractLsb' 0 32) ≠ .real x) →
    ∃ t : State, exec (.cvts rd) s = .next t ∧ ResultIn s t rd 0#64 ∧ t.status = s.status ||| 0b100#3) ∧
  ∀ (rd : Reg) (s : State), (∀ x : ℚ, fpval64 s.data ≠ .real x) →
    ∃ t : State, exec (.cvtd rd) s = .next t ∧ ResultIn s t rd 0#64 ∧ t.status = s.status ||| 0b100#3

/-- R222: no command but DIV, CVTS and CVTD sets a status bit, and CLRST clears all three. -/
def Obligations.NoOtherCommandSetsAStatusBit : Prop :=
  ∀ (i : Instr) (s t : State), exec i s = .next t →
    (i = .clrst → t.status = 0b000#3) ∧
    (i ≠ .clrst → (∀ rd a b, i ≠ .div rd a b) → (∀ rd, i ≠ .cvts rd) → (∀ rd, i ≠ .cvtd rd) → t.status = s.status)

/-- R224: a command word raises at most one event; ILL only an illegal word, DZ only DIV, NV only CVTS and CVTD. -/
def Obligations.AtMostOneEventPerCommand : Prop :=
  ∀ (w : Cmd) (s t : State), runWord w s = .next t →
    (∀ e e' : Event, flagSet s.status e = false → flagSet t.status e = true →
      flagSet s.status e' = false → flagSet t.status e' = true → e = e') ∧
    (flagSet s.status .ill = false → flagSet t.status .ill = true → legalWord w = false) ∧
    (flagSet s.status .dz = false → flagSet t.status .dz = true → ∃ rd a b, decode w = .ok (.div rd a b)) ∧
    (flagSet s.status .nv = false → flagSet t.status .nv = true →
      ∃ rd, decode w = .ok (.cvts rd) ∨ decode w = .ok (.cvtd rd))

/-- R226: a status bit that is set stays set through every edge but one that completes a CLRST or samples `rst = 1`, and
those clear it. -/
def Obligations.StatusBitsAreStickyUntilClrstOrReset : Prop :=
  ∀ (s t : State) (e : Event), step s = .next t →
    ((portIn s).rst = true ∨ (∃ w, completing s = some w ∧ decode w = .ok .clrst) → t.status = 0b000#3) ∧
    (flagSet s.status e = true → flagSet t.status e = true ∨ (portIn s).rst = true ∨
      ∃ w, completing s = some w ∧ decode w = .ok .clrst)

/-- R24: P is written by the six compares and nothing else, with the truth value of the comparison, no command reads it, it
is on the `pred` output, and it resets to 0. -/
def Obligations.PredicateIsWrittenOnlyByCompares : Prop :=
  (∀ (w : Cmd) (s t : State), runWord w s = .next t →
    t.p = s.p ∨ ∃ i, decode w = .ok i ∧ isCompare i = true) ∧
  (∀ (a b : Reg) (s : State),
    (∃ t, exec (.ceq a b) s = .next t ∧ t.p = decide (val s.cfg s.v[a] = val s.cfg s.v[b])) ∧
    (∃ t, exec (.cne a b) s = .next t ∧ t.p = decide (val s.cfg s.v[a] ≠ val s.cfg s.v[b])) ∧
    (∃ t, exec (.clt a b) s = .next t ∧ t.p = decide (val s.cfg s.v[a] < val s.cfg s.v[b])) ∧
    (∃ t, exec (.cle a b) s = .next t ∧ t.p = decide (val s.cfg s.v[a] ≤ val s.cfg s.v[b])) ∧
    (∃ t, exec (.cgt a b) s = .next t ∧ t.p = decide (val s.cfg s.v[a] > val s.cfg s.v[b])) ∧
    (∃ t, exec (.cge a b) s = .next t ∧ t.p = decide (val s.cfg s.v[a] ≥ val s.cfg s.v[b]))) ∧
  (∀ (i : Instr) (s t : State) (b : Bool), exec i s = .next t →
    ∃ u : State, exec i { s with p := b } = .next u ∧ u.v = t.v ∧ u.res = t.res ∧ u.status = t.status ∧
      u.p = (if isCompare i then t.p else b)) ∧
  (∀ s : State, (outputs s).pred = s.p) ∧ ∀ c : Config, (State.resetOf c).p = false

/-- R28: every command that writes `V[rd]` writes the same value to RES, RD writes `V[rs1]` to it, every other command and
every illegal word leaves it; it is on the `res` output and resets to 0. -/
def Obligations.ResFollowsTheWrittenRegister : Prop :=
  (∀ (i : Instr) (s t : State), exec i s = .next t →
    (∀ rd : Reg, destOf i = some rd → t.res = t.v[rd]) ∧ (∀ rs1 : Reg, i = .rd rs1 → t.res = s.v[rs1]) ∧
      (destOf i = none → (∀ rs1 : Reg, i ≠ .rd rs1) → t.res = s.res)) ∧
  (∀ (w : Cmd) (s : State), legalWord w = false → ∃ t, runWord w s = .next t ∧ t.res = s.res) ∧
  (∀ s : State, (outputs s).res = s.res) ∧ ∀ c : Config, (State.resetOf c).res = 0#64

/-- R22: a command changes no value register but its destination, and what it computes depends on no value register but its
sources; an illegal word accesses none. The tables `destOf` and `sourcesOf` are R22's two lists. -/
def Obligations.CommandsAccessOnlyTheirRegisters : Prop :=
  (∀ (i : Instr) (s t : State), exec i s = .next t → ∀ k : Reg, destOf i ≠ some k → t.v[k] = s.v[k]) ∧
  (∀ (i : Instr) (s t : State) (v' : Vector Word 8), (∀ k ∈ sourcesOf i, v'[k] = s.v[k]) → exec i s = .next t →
    ∃ t' : State, exec i { s with v := v' } = .next t' ∧ t'.p = t.p ∧ t'.res = t.res ∧ t'.status = t.status ∧
      ∀ rd : Reg, destOf i = some rd → t'.v[rd] = t.v[rd]) ∧
  ∀ (w : Cmd) (s : State), legalWord w = false → ∃ t, runWord w s = .next t ∧ t.v = s.v

/-- R77: a word is legal exactly when a row of the opcode map matches it, no two rows share an opcode, and an illegal word
sets ILL and changes nothing else. -/
def Obligations.LegalWordsAreThoseOfTheOpcodeMap : Prop :=
  (∀ w : Cmd, legalWord w = true ↔
    ∃ row ∈ opcodeMap, (w.extractLsb' 24 8).toNat = row.1 ∧ w &&& row.2 = BitVec.ofNat 32 row.1 <<< 24) ∧
  (opcodeMap.map Prod.fst).Nodup ∧
  ∀ (w : Cmd) (s : State), legalWord w = false →
    runWord w s = .next { s with status := s.status ||| 0b001#3 }

/-- R78(a), (b), (c): the three kinds of illegal word, each refused under its own name; 234 opcodes are reserved. -/
def Obligations.ReservedEncodingsAreRefused : Prop :=
  (∀ w : Cmd,
    (((w.extractLsb' 24 8).toNat ∉ opcodeMap.map Prod.fst) → decode w = .error .reservedOpcode) ∧
    ((w.extractLsb' 24 8).toNat ∈ opcodeMap.map Prod.fst →
      (w.getLsbD 23 || w.getLsbD 19 || w.getLsbD 15 || !(w.extractLsb' 6 6 == 0#6)) = true →
      decode w = .error .reservedBit) ∧
    ∀ (row : Nat × Cmd), row ∈ opcodeMap → (w.extractLsb' 24 8).toNat = row.1 →
      (w.getLsbD 23 || w.getLsbD 19 || w.getLsbD 15 || !(w.extractLsb' 6 6 == 0#6)) = false →
      w &&& row.2 ≠ BitVec.ofNat 32 row.1 <<< 24 → decode w = .error .unusedField) ∧
  ((List.range 256).filter fun opc => !(opcodeMap.map Prod.fst).contains opc).length = 234

/-- Decoding the word of a well-formed command gives the command, with every operand. -/
def Obligations.DecodeOfEncodeIsTheCommand : Prop :=
  ∀ i : Instr, i.wf = true → decode (encode i) = .ok i

/-- A word that decodes to a command is that command's word, and the command is well-formed: each command has one word. -/
def Obligations.EncodeOfDecodeIsTheWord : Prop :=
  ∀ (w : Cmd) (i : Instr), decode w = .ok i → encode i = w ∧ i.wf = true

/-- A sanity check of the decoder: one word for each family, written from the spec's examples. -/
def Obligations.SampleWordsDecodeAsTheSpecWritesThem : Prop :=
  decode 0x01500000#32 = .ok (.zero 5) ∧ decode 0x04200000#32 = .ok (.cvtd 2) ∧ decode 0x10312000#32 = .ok (.add 3 1 2) ∧
    decode 0x13210000#32 = .ok (.dec 2 1) ∧ decode 0x35012000#32 = .ok (.cge 1 2) ∧
    decode 0x18210001#32 = .ok (.shl 2 1 1) ∧ decode 0x21312000#32 = .ok (.div 3 1 2) ∧
    decode 0x06030000#32 = .ok (.rd 3) ∧ decode 0x07000000#32 = .ok .clrst ∧ decode 0x00000000#32 = .ok .nop

/-- R101: ZERO. -/
def Obligations.ZeroWritesZero : Prop :=
  ∀ (rd : Reg) (s : State),
    decode (BitVec.ofNat 32 (0x01000000 + rd * 2 ^ 20)) = .ok (.zero rd) ∧
      ∃ t : State, exec (.zero rd) s = .next t ∧ ResultIn s t rd 0#64 ∧ t.status = s.status

/-- R102: CVTS, with the exact rounding of R100 written out. -/
def Obligations.CvtsConvertsTheBinary32Operand : Prop :=
  ∀ (rd : Reg) (s : State),
    decode (BitVec.ofNat 32 (0x03000000 + rd * 2 ^ 20)) = .ok (.cvts rd) ∧
      ∃ (t : State) (r : Word), exec (.cvts rd) s = .next t ∧ ResultIn s t rd r ∧
        (∀ x : ℚ, fpval32 (s.data.extractLsb' 0 32) = .real x →
          (r.toNat : ℤ) = (if 0 ≤ x then ⌊x * 2 ^ s.cfg.fbits + 1 / 2⌋ else -⌊-(x * 2 ^ s.cfg.fbits) + 1 / 2⌋) %
              2 ^ s.cfg.bits ∧ t.status = s.status) ∧
        ((∀ x : ℚ, fpval32 (s.data.extractLsb' 0 32) ≠ .real x) → r = 0#64 ∧ t.status = s.status ||| 0b100#3)

/-- R103: CVTD, with the exact rounding of R100 written out. -/
def Obligations.CvtdConvertsTheBinary64Operand : Prop :=
  ∀ (rd : Reg) (s : State),
    decode (BitVec.ofNat 32 (0x04000000 + rd * 2 ^ 20)) = .ok (.cvtd rd) ∧
      ∃ (t : State) (r : Word), exec (.cvtd rd) s = .next t ∧ ResultIn s t rd r ∧
        (∀ x : ℚ, fpval64 s.data = .real x →
          (r.toNat : ℤ) = (if 0 ≤ x then ⌊x * 2 ^ s.cfg.fbits + 1 / 2⌋ else -⌊-(x * 2 ^ s.cfg.fbits) + 1 / 2⌋) %
              2 ^ s.cfg.bits ∧ t.status = s.status) ∧
        ((∀ x : ℚ, fpval64 s.data ≠ .real x) → r = 0#64 ∧ t.status = s.status ||| 0b100#3)

/-- R120: ADD. -/
def Obligations.AddWrapsModuloTheWidth : Prop :=
  ∀ (rd rs1 rs2 : Reg) (s : State),
    decode (BitVec.ofNat 32 (0x10000000 + rd * 2 ^ 20 + rs1 * 2 ^ 16 + rs2 * 2 ^ 12)) = .ok (.add rd rs1 rs2) ∧
      ∃ (t : State) (r : Word), exec (.add rd rs1 rs2) s = .next t ∧ ResultIn s t rd r ∧ t.status = s.status ∧
        r.toNat = (s.v[rs1].toNat + s.v[rs2].toNat) % 2 ^ s.cfg.bits

/-- R121: SUB. -/
def Obligations.SubWrapsModuloTheWidth : Prop :=
  ∀ (rd rs1 rs2 : Reg) (s : State),
    decode (BitVec.ofNat 32 (0x11000000 + rd * 2 ^ 20 + rs1 * 2 ^ 16 + rs2 * 2 ^ 12)) = .ok (.sub rd rs1 rs2) ∧
      ∃ (t : State) (r : Word), exec (.sub rd rs1 rs2) s = .next t ∧ ResultIn s t rd r ∧ t.status = s.status ∧
        (r.toNat : ℤ) = ((s.v[rs1].toNat : ℤ) - s.v[rs2].toNat) % 2 ^ s.cfg.bits

/-- R122: INC. -/
def Obligations.IncAddsOneUnit : Prop :=
  ∀ (rd rs1 : Reg) (s : State),
    decode (BitVec.ofNat 32 (0x12000000 + rd * 2 ^ 20 + rs1 * 2 ^ 16)) = .ok (.inc rd rs1) ∧
      ∃ (t : State) (r : Word), exec (.inc rd rs1) s = .next t ∧ ResultIn s t rd r ∧ t.status = s.status ∧
        r.toNat = (s.v[rs1].toNat + 2 ^ s.cfg.fbits) % 2 ^ s.cfg.bits

/-- R123: DEC. -/
def Obligations.DecSubtractsOneUnit : Prop :=
  ∀ (rd rs1 : Reg) (s : State),
    decode (BitVec.ofNat 32 (0x13000000 + rd * 2 ^ 20 + rs1 * 2 ^ 16)) = .ok (.dec rd rs1) ∧
      ∃ (t : State) (r : Word), exec (.dec rd rs1) s = .next t ∧ ResultIn s t rd r ∧ t.status = s.status ∧
        (r.toNat : ℤ) = ((s.v[rs1].toNat : ℤ) - 2 ^ s.cfg.fbits) % 2 ^ s.cfg.bits

/-- R140 to R146: the six compares, each with its word, and that `rd` and `sh` must be 0 in such a word. CEQ is bit equality on
patterns that fit the width. -/
def Obligations.ComparesWriteThePredicateAndNothingElse : Prop :=
  (∀ (rs1 rs2 : Reg) (s : State),
    (decode (BitVec.ofNat 32 (0x30000000 + rs1 * 2 ^ 16 + rs2 * 2 ^ 12)) = .ok (.ceq rs1 rs2) ∧
      ∃ t : State, exec (.ceq rs1 rs2) s = .next t ∧
        PredicateIn s t (decide (val s.cfg s.v[rs1] = val s.cfg s.v[rs2])) ∧
        (s.PatternsFit → t.p = decide (s.v[rs1] = s.v[rs2]))) ∧
    (decode (BitVec.ofNat 32 (0x31000000 + rs1 * 2 ^ 16 + rs2 * 2 ^ 12)) = .ok (.cne rs1 rs2) ∧
      ∃ t : State, exec (.cne rs1 rs2) s = .next t ∧
        PredicateIn s t (decide (val s.cfg s.v[rs1] ≠ val s.cfg s.v[rs2]))) ∧
    (decode (BitVec.ofNat 32 (0x32000000 + rs1 * 2 ^ 16 + rs2 * 2 ^ 12)) = .ok (.clt rs1 rs2) ∧
      ∃ t : State, exec (.clt rs1 rs2) s = .next t ∧
        PredicateIn s t (decide (val s.cfg s.v[rs1] < val s.cfg s.v[rs2]))) ∧
    (decode (BitVec.ofNat 32 (0x33000000 + rs1 * 2 ^ 16 + rs2 * 2 ^ 12)) = .ok (.cle rs1 rs2) ∧
      ∃ t : State, exec (.cle rs1 rs2) s = .next t ∧
        PredicateIn s t (decide (val s.cfg s.v[rs1] ≤ val s.cfg s.v[rs2]))) ∧
    (decode (BitVec.ofNat 32 (0x34000000 + rs1 * 2 ^ 16 + rs2 * 2 ^ 12)) = .ok (.cgt rs1 rs2) ∧
      ∃ t : State, exec (.cgt rs1 rs2) s = .next t ∧
        PredicateIn s t (decide (val s.cfg s.v[rs1] > val s.cfg s.v[rs2]))) ∧
    (decode (BitVec.ofNat 32 (0x35000000 + rs1 * 2 ^ 16 + rs2 * 2 ^ 12)) = .ok (.cge rs1 rs2) ∧
      ∃ t : State, exec (.cge rs1 rs2) s = .next t ∧
        PredicateIn s t (decide (val s.cfg s.v[rs1] ≥ val s.cfg s.v[rs2])))) ∧
  ∀ w : Cmd, 0x30 ≤ (w.extractLsb' 24 8).toNat ∧ (w.extractLsb' 24 8).toNat ≤ 0x35 → legalWord w = true →
    w.extractLsb' 20 3 = 0#3 ∧ w.extractLsb' 0 6 = 0#6

/-- R160: SHL, for every count an encoding holds; a count of `W` or more gives 0. -/
def Obligations.ShlMultipliesModuloTheWidth : Prop :=
  ∀ (rd rs1 : Reg) (sh : Nat) (s : State), sh < 64 →
    decode (BitVec.ofNat 32 (0x18000000 + rd * 2 ^ 20 + rs1 * 2 ^ 16 + sh)) = .ok (.shl rd rs1 sh) ∧
      ∃ (t : State) (r : Word), exec (.shl rd rs1 sh) s = .next t ∧ ResultIn s t rd r ∧ t.status = s.status ∧
        r.toNat = s.v[rs1].toNat * 2 ^ sh % 2 ^ s.cfg.bits ∧ (s.cfg.bits ≤ sh → r = 0#64)

/-- R161: SHR, for every count an encoding holds. -/
def Obligations.ShrFloorsTheValue : Prop :=
  ∀ (rd rs1 : Reg) (sh : Nat) (s : State), sh < 64 →
    decode (BitVec.ofNat 32 (0x19000000 + rd * 2 ^ 20 + rs1 * 2 ^ 16 + sh)) = .ok (.shr rd rs1 sh) ∧
      ∃ (t : State) (r : Word), exec (.shr rd rs1 sh) s = .next t ∧ ResultIn s t rd r ∧ t.status = s.status ∧
        (r.toNat : ℤ) = ⌊(val s.cfg s.v[rs1] : ℚ) / 2 ^ sh⌋ % 2 ^ s.cfg.bits

/-- R160(b), R161(b), (c): what a long shift right of a fitting pattern leaves: all sign bits for signed storage from
`W - 1` on, 0 for unsigned storage from `W` on. -/
def Obligations.LongShiftsRightLeaveTheSign : Prop :=
  ∀ (rd rs1 : Reg) (sh : Nat) (s : State), s.PatternsFit →
    ∃ t : State, exec (.shr rd rs1 sh) s = .next t ∧
      (s.cfg.signed = true → s.cfg.bits - 1 ≤ sh →
        t.v[rd].toNat = if s.v[rs1].getLsbD (s.cfg.bits - 1) then 2 ^ s.cfg.bits - 1 else 0) ∧
      (s.cfg.signed = false → s.cfg.bits ≤ sh → t.v[rd] = 0#64)

/-- R180: MUL. -/
def Obligations.MulRescalesAndTruncatesTowardZero : Prop :=
  ∀ (rd rs1 rs2 : Reg) (s : State),
    decode (BitVec.ofNat 32 (0x20000000 + rd * 2 ^ 20 + rs1 * 2 ^ 16 + rs2 * 2 ^ 12)) = .ok (.mul rd rs1 rs2) ∧
      ∃ (t : State) (r : Word), exec (.mul rd rs1 rs2) s = .next t ∧ ResultIn s t rd r ∧ t.status = s.status ∧
        (r.toNat : ℤ) =
          (val s.cfg s.v[rs1] * val s.cfg s.v[rs2]).tdiv (2 ^ s.cfg.fbits) % 2 ^ s.cfg.bits

/-- R181: DIV. -/
def Obligations.DivRescalesAndTruncatesTowardZero : Prop :=
  ∀ (rd rs1 rs2 : Reg) (s : State),
    decode (BitVec.ofNat 32 (0x21000000 + rd * 2 ^ 20 + rs1 * 2 ^ 16 + rs2 * 2 ^ 12)) = .ok (.div rd rs1 rs2) ∧
      ∃ (t : State) (r : Word), exec (.div rd rs1 rs2) s = .next t ∧ ResultIn s t rd r ∧
        (val s.cfg s.v[rs2] = 0 → r.toNat = 2 ^ s.cfg.bits - 1 ∧ t.status = s.status ||| 0b010#3) ∧
        (val s.cfg s.v[rs2] ≠ 0 → t.status = s.status ∧
          (r.toNat : ℤ) =
            (val s.cfg s.v[rs1] * 2 ^ s.cfg.fbits).tdiv (val s.cfg s.v[rs2]) % 2 ^ s.cfg.bits)

/-- R200: NOP; a word with its opcode and any other bit set is illegal. -/
def Obligations.NopChangesNothing : Prop :=
  (∀ s : State, exec .nop s = .next s) ∧ decode 0x00000000#32 = .ok .nop ∧
    ∀ w : Cmd, (w.extractLsb' 24 8).toNat = 0 → w ≠ 0#32 → legalWord w = false

/-- R201: MOV. -/
def Obligations.MovCopiesTheRegister : Prop :=
  ∀ (rd rs1 : Reg) (s : State),
    decode (BitVec.ofNat 32 (0x02000000 + rd * 2 ^ 20 + rs1 * 2 ^ 16)) = .ok (.mov rd rs1) ∧
      ∃ t : State, exec (.mov rd rs1) s = .next t ∧ ResultIn s t rd s.v[rs1] ∧ t.status = s.status

/-- R202: LDRAW. -/
def Obligations.LdrawLoadsTheLowBitsOfData : Prop :=
  ∀ (rd : Reg) (s : State),
    decode (BitVec.ofNat 32 (0x05000000 + rd * 2 ^ 20)) = .ok (.ldraw rd) ∧
      ∃ (t : State) (r : Word), exec (.ldraw rd) s = .next t ∧ ResultIn s t rd r ∧ t.status = s.status ∧
        r.toNat = s.data.toNat % 2 ^ s.cfg.bits

/-- R203: RD, the only command that writes RES without writing a value register. -/
def Obligations.RdDrivesTheRegisterOntoRes : Prop :=
  (∀ (rs1 : Reg) (s : State),
    decode (BitVec.ofNat 32 (0x06000000 + rs1 * 2 ^ 16)) = .ok (.rd rs1) ∧
      ∃ t : State, exec (.rd rs1) s = .next t ∧ t.res = s.v[rs1] ∧ (∀ k : Reg, t.v[k] = s.v[k]) ∧ t.p = s.p ∧
        t.status = s.status ∧ SameOutside s t) ∧
  ∀ (i : Instr) (s t : State), exec i s = .next t → t.res ≠ s.res → destOf i = none → ∃ rs1, i = .rd rs1

/-- R204: CLRST, the only command that clears a STATUS bit. -/
def Obligations.ClrstClearsTheStatus : Prop :=
  (∀ s : State, ∃ t : State, exec .clrst s = .next t ∧ t.status = 0b000#3 ∧ (∀ k : Reg, t.v[k] = s.v[k]) ∧
    t.res = s.res ∧ t.p = s.p ∧ SameOutside s t) ∧
  (decode 0x07000000#32 = .ok .clrst ∧
    ∀ w : Cmd, (w.extractLsb' 24 8).toNat = 7 → w ≠ 0x07000000#32 → legalWord w = false) ∧
  (∀ (i : Instr) (s t : State) (e : Event), exec i s = .next t → flagSet s.status e = true →
    flagSet t.status e = false → i = .clrst) ∧
  ∀ (s t : State) (w : Cmd), exec .clrst s = .next t → legalWord w = false →
    ∃ u : State, runWord w t = .next u ∧ flagSet u.status .ill = true

/-- R13: the readings of a pattern that fits the width, the reduction of an integer to one, and the two extensions. -/
def Obligations.PatternsReadAndWrapAsIntegers : Prop :=
  (∀ (c : Config) (x : Word), FitsWidth c x →
    (0 ≤ uint x ∧ uint x < 2 ^ c.bits) ∧
    (sint c x = if x.getLsbD (c.bits - 1) then uint x - 2 ^ c.bits else uint x) ∧
    (-(2 ^ (c.bits - 1)) ≤ sint c x ∧ sint c x < 2 ^ (c.bits - 1)) ∧
    (val c x = if c.signed then sint c x else uint x) ∧ wrap c (val c x) = x) ∧
  (∀ (c : Config) (n : ℤ), FitsWidth c (wrap c n) ∧ uint (wrap c n) = n % 2 ^ c.bits) ∧
  ∀ (m n : Nat) (v : BitVec m), m ≤ n → (zext n v).toNat = v.toNat ∧ (sext n v).toInt = v.toInt

/-- R14: `tdiv` truncates the quotient toward zero, and `rhaz` rounds half away from zero. -/
def Obligations.QuotientsTruncateAndHalvesRoundAway : Prop :=
  (∀ n d : ℤ, d ≠ 0 → tdiv n d = n.sign * d.sign * ⌊((|n| : ℤ) : ℚ) / ((|d| : ℤ) : ℚ)⌋ ∧ tdiv n d = n.tdiv d) ∧
  (∀ r : ℚ, rhaz r = if 0 ≤ r then ⌊r + 1 / 2⌋ else -⌊-r + 1 / 2⌋) ∧
  ∀ r : ℚ, |(rhaz r : ℚ) - r| ≤ 1 / 2 ∧ (|(rhaz r : ℚ) - r| = 1 / 2 → |r| < |(rhaz r : ℚ)|)

/-- R15: the two floating-point layouts. -/
def Obligations.FloatingPointPatternsDecode : Prop :=
  (∀ b : BitVec 32,
    let sg : ℚ := (-1) ^ (b.extractLsb' 31 1).toNat
    let e := (b.extractLsb' 23 8).toNat
    let m := (b.extractLsb' 0 23).toNat
    (e = 0xFF → m ≠ 0 → fpval32 b = .nan) ∧ (e = 0xFF → m = 0 → fpval32 b = .inf (b.getLsbD 31)) ∧
      (e = 0 → fpval32 b = .real (sg * m * 2 ^ (-149 : ℤ))) ∧
      (e ≠ 0 → e ≠ 0xFF → fpval32 b = .real (sg * (2 ^ 23 + m) * 2 ^ ((e : ℤ) - 150)))) ∧
  ∀ b : BitVec 64,
    let sg : ℚ := (-1) ^ (b.extractLsb' 63 1).toNat
    let e := (b.extractLsb' 52 11).toNat
    let m := (b.extractLsb' 0 52).toNat
    (e = 0x7FF → m ≠ 0 → fpval64 b = .nan) ∧ (e = 0x7FF → m = 0 → fpval64 b = .inf (b.getLsbD 63)) ∧
      (e = 0 → fpval64 b = .real (sg * m * 2 ^ (-1074 : ℤ))) ∧
      (e ≠ 0 → e ≠ 0x7FF → fpval64 b = .real (sg * (2 ^ 52 + m) * 2 ^ ((e : ℤ) - 1075)))

/-- R105: a finite input in range comes back within half a unit. -/
def Obligations.ConversionRoundTripsWithinHalfAUnit : Prop :=
  ∀ (rd : Reg) (s : State) (x : ℚ),
    val s.cfg (wrap s.cfg (rhaz (x * 2 ^ s.cfg.fbits))) = rhaz (x * 2 ^ s.cfg.fbits) →
    (fpval32 (s.data.extractLsb' 0 32) = .real x → ∃ t : State, exec (.cvts rd) s = .next t ∧
      |(val s.cfg t.v[rd] : ℚ) / 2 ^ s.cfg.fbits - x| ≤ 1 / 2 / 2 ^ s.cfg.fbits) ∧
    (fpval64 s.data = .real x → ∃ t : State, exec (.cvtd rd) s = .next t ∧
      |(val s.cfg t.v[rd] : ℚ) / 2 ^ s.cfg.fbits - x| ≤ 1 / 2 / 2 ^ s.cfg.fbits)

/-- R106: the exact half step rounds away from zero, in every configuration. -/
def Obligations.HalfStepsRoundAwayFromZero : Prop :=
  ∀ (rd : Reg) (s : State) (i : Instr) (x : FpValue),
    (i = .cvts rd ∧ x = fpval32 (s.data.extractLsb' 0 32)) ∨ (i = .cvtd rd ∧ x = fpval64 s.data) →
    (x = .real (1 / 2 / 2 ^ s.cfg.fbits) → ∃ t : State, exec i s = .next t ∧ t.v[rd] = 1#64) ∧
    (x = .real (-(1 / 2 / 2 ^ s.cfg.fbits)) → ∃ t : State, exec i s = .next t ∧
      t.v[rd].toNat = 2 ^ s.cfg.bits - 1 ∧ (s.cfg.signed = true → val s.cfg t.v[rd] = -1) ∧
      (s.cfg.signed = false → val s.cfg t.v[rd] = 2 ^ s.cfg.bits - 1))

/-- R124: a binary operation is the compound one applied to a copy, and the bits are the same wherever the destination is. -/
def Obligations.BinaryFormsAreCompoundFormsOfACopy : Prop :=
  ∀ (rd rd' a b : Reg) (s : State),
    (rd ≠ b → ∃ t u : State, exec (.mov rd a) s = .next t ∧ exec (.add rd rd b) t = .next u ∧
      exec (.add rd a b) s = .next u) ∧
    (rd ≠ b → ∃ t u : State, exec (.mov rd a) s = .next t ∧ exec (.sub rd rd b) t = .next u ∧
      exec (.sub rd a b) s = .next u) ∧
    (∃ t u : State, exec (.mov rd a) s = .next t ∧ exec (.inc rd rd) t = .next u ∧ exec (.inc rd a) s = .next u) ∧
    (∃ t u : State, exec (.mov rd a) s = .next t ∧ exec (.dec rd rd) t = .next u ∧ exec (.dec rd a) s = .next u) ∧
    (∃ t t' : State, exec (.add rd a b) s = .next t ∧ exec (.add rd' a b) s = .next t' ∧ t.v[rd] = t'.v[rd']) ∧
    (∃ t t' : State, exec (.sub rd a b) s = .next t ∧ exec (.sub rd' a b) s = .next t' ∧ t.v[rd] = t'.v[rd']) ∧
    (∃ t t' : State, exec (.inc rd a) s = .next t ∧ exec (.inc rd' a) s = .next t' ∧ t.v[rd] = t'.v[rd']) ∧
    ∃ t t' : State, exec (.dec rd a) s = .next t ∧ exec (.dec rd' a) s = .next t' ∧ t.v[rd] = t'.v[rd']

/-- R125: ADD, SUB, INC and DEC do the same whichever way the storage is read. -/
def Obligations.AdditionDoesNotDependOnSignedness : Prop :=
  ∀ (i : Instr) (s t : State) (b : Bool),
    (∃ rd x y, i = .add rd x y ∨ i = .sub rd x y) ∨ (∃ rd x, i = .inc rd x ∨ i = .dec rd x) →
    exec i s = .next t →
    exec i { s with cfg := { s.cfg with signed := b } } = .next { t with cfg := { s.cfg with signed := b } }

/-- R126: zero is neutral, a value less itself is zero, and addition associates bit for bit. -/
def Obligations.AdditionLawsHoldForEveryPattern : Prop :=
  ∀ (rd a b c : Reg) (s : State), s.PatternsFit →
    (s.v[b] = 0#64 → ∃ t : State, exec (.add rd a b) s = .next t ∧ t.v[rd] = s.v[a]) ∧
    (∃ t : State, exec (.sub rd a a) s = .next t ∧ t.v[rd] = 0#64) ∧
    (rd ≠ a → rd ≠ c → ∃ t u t' u' : State,
      exec (.add rd a b) s = .next t ∧ exec (.add rd rd c) t = .next u ∧
      exec (.add rd b c) s = .next t' ∧ exec (.add rd a rd) t' = .next u' ∧ u.v[rd] = u'.v[rd])

/-- R147: exactly one of CLT, CEQ and CGT holds, the other three follow from them, swapping the operands swaps the order,
and the order is that of the represented reals. -/
def Obligations.ExactlyOneOrderHoldsAndMatchesTheReals : Prop :=
  ∀ (a b : Reg) (s : State), ∃ lt eq gt ne le ge lt' le' : State,
    exec (.clt a b) s = .next lt ∧ exec (.ceq a b) s = .next eq ∧ exec (.cgt a b) s = .next gt ∧
    exec (.cne a b) s = .next ne ∧ exec (.cle a b) s = .next le ∧ exec (.cge a b) s = .next ge ∧
    exec (.clt b a) s = .next lt' ∧ exec (.cle b a) s = .next le' ∧
    lt.p.toNat + eq.p.toNat + gt.p.toNat = 1 ∧ ne.p = !eq.p ∧ le.p = (lt.p || eq.p) ∧ ge.p = (gt.p || eq.p) ∧
    lt'.p = gt.p ∧ le'.p = ge.p ∧
    (lt.p = true ↔ (val s.cfg s.v[a] : ℚ) / s.cfg.scale < (val s.cfg s.v[b] : ℚ) / s.cfg.scale)

/-- R162: SHL by 1 is ADD of a register to itself, and SHR by 1 is the floor of half the value. -/
def Obligations.ShiftsScaleByTwo : Prop :=
  ∀ (rd a : Reg) (s : State),
    (∃ t : State, exec (.shl rd a 1) s = .next t ∧ exec (.add rd a a) s = .next t) ∧
    ∃ t : State, exec (.shr rd a 1) s = .next t ∧ t.v[rd] = wrap s.cfg ⌊(val s.cfg s.v[a] : ℚ) / 2⌋

/-- R182: where `2^F` is a value of the storage type, multiplying and dividing by the pattern of 1.0 changes nothing. -/
def Obligations.MulAndDivByOneAreIdentities : Prop :=
  ∀ (rd a o : Reg) (s : State), s.PatternsFit →
    (if s.cfg.signed then s.cfg.fbits < s.cfg.bits - 1 else s.cfg.fbits < s.cfg.bits) →
    s.v[o] = wrap s.cfg (2 ^ s.cfg.fbits) →
    (∃ t : State, exec (.mul rd a o) s = .next t ∧ t.v[rd] = s.v[a]) ∧
    (∃ t : State, exec (.mul rd o a) s = .next t ∧ t.v[rd] = s.v[a]) ∧
    ∃ t : State, exec (.div rd a o) s = .next t ∧ t.v[rd] = s.v[a]

/-- R75: the bits of DATA that a command does not read change nothing; no other command reads DATA at all. -/
def Obligations.UnreadDataBitsAreIgnored : Prop :=
  ∀ (i : Instr) (s t : State) (d : Data), exec i s = .next t →
    ((∀ rd, i ≠ .cvts rd ∧ i ≠ .cvtd rd ∧ i ≠ .ldraw rd) ∨
      (∃ rd, i = .cvts rd ∧ ∀ k < 32, d.getLsbD k = s.data.getLsbD k) ∨
      (∃ rd, i = .cvtd rd ∧ d = s.data) ∨
      (∃ rd, i = .ldraw rd ∧ ∀ k < s.cfg.bits, d.getLsbD k = s.data.getLsbD k)) →
    exec i { s with data := d } = .next { t with data := d }

/-- R8, R245: no command's result depends on `I` or on any latency; of the parameters only `W`, SIGNED and `F` are read. -/
def Obligations.OnlyWidthSignednessAndFractionMatter : Prop :=
  ∀ (i : Instr) (s t : State) (c : Config), c.width = s.cfg.width → c.signed = s.cfg.signed → c.fbits = s.cfg.fbits →
    exec i s = .next t → exec i { s with cfg := c } = .next { t with cfg := c }

/-- An edge runs the decoded command: at an acceptance edge when its latency is 1, and at the completion edge of a command in
flight; around it the sample is taken and the handshake says ready, done and nothing in flight. -/
def Obligations.StepRunsTheDecodedCommand : Prop :=
  ∀ (s : State) (i : Instr),
    (accepts s = true → decode (portIn s).cmd = .ok i → latencyOf s.cfg i = 1 →
      step s = exec i { s with data := (portIn s).data, inFlight := none, ready := true, done := true,
                               inputs := s.inputs.tail }) ∧
    (∀ w : Cmd, s.inFlight = some ⟨w, 1⟩ → (portIn s).rst = false → decode w = .ok i →
      step s = exec i { s with inFlight := none, ready := true, done := true, inputs := s.inputs.tail }) ∧
    ∀ w : Nat, decode (BitVec.ofNat 32 w) = .ok i →
      step (s.withFetchWord 32 w) =
        exec i { s with inFlight := none, ready := true, done := true, inputs := s.inputs.tail }

/-- R243(a), (f): when a command is accepted, and that a command presented while `cmd_ready = 0` is not looked at. -/
def Obligations.OnlyAReadyCoreAccepts : Prop :=
  (∀ s : State, s.Inv → (accepts s = true ↔
    (portIn s).rst = false ∧ (portIn s).cmdValid = true ∧ (outputs s).cmdReady = true)) ∧
  ∀ (s : State) (x : PortIn) (rest : List PortIn), s.inputs = x :: rest → x.rst = false → s.ready = false →
    step s = step { s with inputs := PortIn.idle :: rest }

/-- R243(b), (c), (d): a command accepted with `LAT(op) = n` shows nothing for `n - 1` edges, with CORE neither ready nor
done, and at the last edge has all of its effect, with CORE ready and done. -/
def Obligations.CommandsCompleteAfterTheirLatency : Prop :=
  ∀ (s : State) (i : Instr), accepts s = true → decode (portIn s).cmd = .ok i → NoReset (latencyOf s.cfg i) s →
    (∀ k : Nat, 1 ≤ k → k < latencyOf s.cfg i → ∃ t : State, Sys2Proof.core.run k s = .next t ∧
      t.ready = false ∧ t.done = false ∧ t.arch = s.arch) ∧
    ∃ t u : State, Sys2Proof.core.run (latencyOf s.cfg i) s = .next t ∧
      exec i { s with data := (portIn s).data } = .next u ∧ t.arch = u.arch ∧ t.ready = true ∧ t.done = true ∧
      t.inFlight = none

/-- R243(e): the outputs `res`, `pred` and `status`, and the value registers, change only at completion edges and at reset
edges; `done` is raised exactly at completion edges. -/
def Obligations.OutputsChangeOnlyAtCompletionOrReset : Prop :=
  ∀ s t : State, step s = .next t →
    ((portIn s).rst = false → completing s = none → t.arch = s.arch ∧ t.done = false) ∧
    (∀ w : Cmd, completing s = some w → t.done = true ∧ t.ready = true ∧ t.inFlight = none)

/-- R233: when no command is presented, an idle CORE holds its state indefinitely. -/
def Obligations.IdleCoreHoldsItsState : Prop :=
  ∀ (k : Nat) (s : State), s.inFlight = none → (∀ x ∈ s.inputs.take k, x.rst = false ∧ x.cmdValid = false) →
    ∃ t : State, Sys2Proof.core.run k s = .next t ∧ t.arch = s.arch ∧ t.inFlight = none

/-- The invariant of the machine holds after reset, in every instance. -/
def Obligations.InvariantHoldsAfterReset : Prop :=
  ∀ c : Config, (State.resetOf c).Inv ∧ State.reset.Inv

/-- The invariant of the machine is kept by every step, and no step changes the instance's parameters. -/
def Obligations.EveryStepKeepsTheInvariant : Prop :=
  ∀ s t : State, s.Inv → step s = .next t → t.Inv ∧ t.cfg = s.cfg

/-- Each edge refines the command rules (R17, R57): counting a command in flight as done, an accepting edge has the effect of
its command as one indivisible step, a reset edge resets, and every other edge changes nothing. -/
def Obligations.EachEdgeRefinesOneCommandStep : Prop :=
  ∀ s t : State, step s = .next t →
    ((portIn s).rst = true → t.arch = (State.resetOf s.cfg).arch ∧ t.inFlight = none) ∧
    (accepts s = true → ∃ u : State, runWord (portIn s).cmd { s with data := (portIn s).data } = .next u ∧
      (flush t).arch = u.arch) ∧
    ((portIn s).rst = false → accepts s = false → (flush t).arch = (flush s).arch)

/-- Whole runs refine the command rules (R57, R245): whatever the latencies and whatever the host presents, any number of edges
without a reset has the effect of the accepted commands, one after another in the order of acceptance. -/
def Obligations.RunsRefineTheSequenceOfAcceptedCommands : Prop :=
  ∀ (k : Nat) (s : State), NoReset k s →
    ∃ t u : State, Sys2Proof.core.run k s = .next t ∧ runCommands (acceptedIn k s) (flush s) = .next u ∧
      (flush t).arch = u.arch
end

