-- ==== Sys2Proof/Laws/Arith.lean ====
section
/-! SUPPORT. What each number primitive does: one lemma a function (spec 00_scope.md R13, R14). -/

namespace Sys2Proof.Machine

theorem bits_pos (c : Config) : 0 < c.bits := by
  unfold Config.bits Width.bits; cases c.width <;> decide

theorem bits_le_64 (c : Config) : c.bits ≤ 64 := by
  unfold Config.bits Width.bits; cases c.width <;> decide

theorem two_pow_bits_pos (c : Config) : 0 < 2 ^ c.bits := Nat.two_pow_pos _

theorem two_pow_bits_le (c : Config) : 2 ^ c.bits ≤ 2 ^ 64 := Nat.pow_le_pow_right (by decide) (bits_le_64 c)

theorem two_pow_bits_half (c : Config) : 2 ^ c.bits = 2 * 2 ^ (c.bits - 1) := by
  obtain ⟨k, hk⟩ : ∃ k, c.bits = k + 1 := ⟨c.bits - 1, by have := bits_pos c; omega⟩
  rw [hk, Nat.pow_succ]; simp [Nat.mul_comm]

/-- `wrap` reduces modulo `2^W` (R13). -/
theorem wrap_toNat (c : Config) (n : Int) : ((wrap c n).toNat : Int) = n % 2 ^ c.bits := by
  have hp : (0 : Int) < ((2 ^ c.bits : Nat) : Int) := by exact_mod_cast two_pow_bits_pos c
  have h0 := Int.emod_nonneg n hp.ne'
  have h1 := Int.emod_lt_of_pos n hp
  have h2 := two_pow_bits_le c
  unfold wrap
  rw [BitVec.toNat_ofNat, Nat.mod_eq_of_lt (by omega), Int.toNat_of_nonneg h0]
  push_cast; rfl

/-- Every result of `wrap` is a pattern of `W` bits (R13). -/
theorem wrap_fits (c : Config) (n : Int) : FitsWidth c (wrap c n) := by
  have hp : (0 : Int) < ((2 ^ c.bits : Nat) : Int) := by exact_mod_cast two_pow_bits_pos c
  have h1 := Int.emod_lt_of_pos n hp
  have h := wrap_toNat c n
  have : ((2 ^ c.bits : Nat) : Int) = 2 ^ c.bits := by push_cast; rfl
  unfold FitsWidth
  omega

/-- Two integers that agree modulo `2^W` wrap to one pattern (R13). -/
theorem wrap_eq_of_emod_eq (c : Config) {m n : Int} (h : m % 2 ^ c.bits = n % 2 ^ c.bits) : wrap c m = wrap c n := by
  apply BitVec.eq_of_toNat_eq
  have hm := wrap_toNat c m
  have hn := wrap_toNat c n
  omega

/-- A pattern of `W` bits is below zero as a two's complement value exactly when bit `W-1` is set (R13). -/
theorem sign_bit_iff (c : Config) {x : Word} (h : FitsWidth c x) :
    x.getLsbD (c.bits - 1) = true ↔ 2 ^ (c.bits - 1) ≤ x.toNat := by
  have h2 := two_pow_bits_half c
  unfold FitsWidth at h
  rw [BitVec.getLsbD, Nat.testBit_eq_decide_div_mod_eq, decide_eq_true_iff]
  have hp : 0 < 2 ^ (c.bits - 1) := Nat.two_pow_pos _
  constructor
  · intro hb
    by_contra hlt
    rw [Nat.div_eq_of_lt (by omega)] at hb
    omega
  · intro hb
    have : x.toNat / 2 ^ (c.bits - 1) = 1 := by
      apply Nat.div_eq_of_lt_le <;> omega
    omega

/-- The two's complement reading of a pattern of `W` bits, by comparison in place of the sign bit (R13). -/
theorem sint_eq (c : Config) {x : Word} (h : FitsWidth c x) :
    sint c x = if 2 ^ (c.bits - 1) ≤ x.toNat then (x.toNat : Int) - 2 ^ c.bits else x.toNat := by
  unfold sint uint
  by_cases hb : x.getLsbD (c.bits - 1) = true
  · rw [if_pos hb, if_pos ((sign_bit_iff c h).1 hb)]; push_cast; rfl
  · rw [if_neg hb, if_neg (mt (sign_bit_iff c h).2 hb)]

/-- A reading of a pattern and its unsigned value agree modulo `2^W` (R13). -/
theorem val_emod (c : Config) (x : Word) : val c x % 2 ^ c.bits = (x.toNat : Int) % 2 ^ c.bits := by
  unfold val sint uint
  split
  · split
    · push_cast
      exact Int.sub_emod_right ..
    · rfl
  · rfl

/-- Wrapping a reading of a pattern of `W` bits gives the pattern back (R13). -/
theorem wrap_val (c : Config) {x : Word} (h : FitsWidth c x) : wrap c (val c x) = x := by
  apply BitVec.eq_of_toNat_eq
  have hw := wrap_toNat c (val c x)
  rw [val_emod] at hw
  have : ((x.toNat : Nat) : Int) % 2 ^ c.bits = x.toNat := by
    apply Int.emod_eq_of_lt (by omega)
    unfold FitsWidth at h
    exact_mod_cast h
  omega

/-- Reading is one-to-one on patterns of `W` bits (R141). -/
theorem val_injective (c : Config) {x y : Word} (hx : FitsWidth c x) (hy : FitsWidth c y) (h : val c x = val c y) :
    x = y := by rw [← wrap_val c hx, ← wrap_val c hy, h]

/-- Zero extension keeps the unsigned value (R13). -/
theorem zext_toNat {m n : Nat} (h : m ≤ n) (v : BitVec m) : (zext n v).toNat = v.toNat := by
  unfold zext
  rw [BitVec.toNat_setWidth]
  exact Nat.mod_eq_of_lt (lt_of_lt_of_le v.isLt (Nat.pow_le_pow_right (by decide) h))

/-- Sign extension keeps the two's complement value (R13). -/
theorem sext_toInt {m n : Nat} (h : m ≤ n) (v : BitVec m) : (sext n v).toInt = v.toInt :=
  BitVec.toInt_signExtend_of_le h

/-- The spec's truncating quotient is the library's (R14). -/
theorem tdiv_eq_tdiv (n d : Int) : tdiv n d = n.tdiv d := by
  unfold tdiv
  rcases n with (_ | m) | m <;> rcases d with (_ | k) | k <;>
    simp [Int.tdiv, Int.sign, Int.natAbs]

/-- Rounding moves a value by at most a half (R14). -/
theorem rhaz_near (r : ℚ) : |(rhaz r : ℚ) - r| ≤ 1 / 2 := by
  unfold rhaz
  split
  · have h1 := Int.floor_le (r + 1 / 2)
    have h2 := Int.lt_floor_add_one (r + 1 / 2)
    rw [abs_le]; constructor <;> linarith
  · have h1 := Int.floor_le (-r + 1 / 2)
    have h2 := Int.lt_floor_add_one (-r + 1 / 2)
    push_cast
    rw [abs_le]; constructor <;> linarith

end Sys2Proof.Machine
end

