-- ==== Sys2Proof/Laws/Decode.lean ====
section
/-! SUPPORT. What the decoder's fields are of the word, and what a row of the opcode map answers (spec 30_encoding.md R71,
R76). -/

namespace Sys2Proof

/-- A field put back at its place is the word's bits there (R71). -/
theorem field_in_place (w m : Cmd) (lo len : Nat)
    (hm : ∀ j : Fin 32, m.getLsbD j = decide (lo ≤ j.val ∧ j.val < lo + len)) :
    BitVec.ofNat 32 (w.extractLsb' lo len).toNat <<< lo = w &&& m := by
  rw [BitVec.ofNat_toNat]
  apply BitVec.eq_of_getLsbD_eq
  intro i hi
  have h := hm ⟨i, hi⟩
  simp only at h
  rw [BitVec.getLsbD_and, h, BitVec.getLsbD_shiftLeft, BitVec.getLsbD_setWidth, BitVec.getLsbD_extractLsb']
  by_cases h1 : lo ≤ i <;> by_cases h2 : i < lo + len
  · simp [h1, h2, hi, show i - lo < len by omega, show i - lo < 32 by omega, show ¬i < lo by omega,
      show lo + (i - lo) = i by omega]
  · simp [h1, h2, hi, show ¬i - lo < len by omega]
  · simp [h1, show i < lo by omega]
  · simp [h1, show i < lo by omega]

theorem opcodeField_in_place (w : Cmd) : BitVec.ofNat 32 (opcodeField w) <<< 24 = w &&& 0xFF000000#32 :=
  field_in_place w _ 24 8 (by decide)

theorem rdField_in_place (w : Cmd) : BitVec.ofNat 32 (rdField w) <<< 20 = w &&& 0x00700000#32 :=
  field_in_place w _ 20 3 (by decide)

theorem rs1Field_in_place (w : Cmd) : BitVec.ofNat 32 (rs1Field w) <<< 16 = w &&& 0x00070000#32 :=
  field_in_place w _ 16 3 (by decide)

theorem rs2Field_in_place (w : Cmd) : BitVec.ofNat 32 (rs2Field w) <<< 12 = w &&& 0x00007000#32 :=
  field_in_place w _ 12 3 (by decide)

theorem shField_in_place (w : Cmd) : BitVec.ofNat 32 (shField w) = w &&& 0x0000003F#32 := by
  have h := field_in_place w 0x3F#32 0 6 (by decide)
  rwa [BitVec.shiftLeft_zero] at h

/-- The row that a word's opcode selects names the word's opcode and its own format (R76, R77). -/
theorem rowOf_opcode (w : Cmd) (f : Format) (i : Instr) (h : rowOf w = some (f, i)) :
    f = i.format ∧ i.opcode = opcodeField w ∧ i.wf = true := by
  have hs : shField w < 64 := (w.extractLsb' 0 6).isLt
  unfold rowOf at h
  split at h <;> first | (cases h; done) | skip
  all_goals
    rename_i ho
    cases h
    exact ⟨rfl, ho.symm, by simp [Instr.wf, shiftAmountFits, hs]⟩

end Sys2Proof
end

