-- ==== Sys2Proof/Laws/State.lean ====
section
/-! SUPPORT. What each update of the state does to each field: one lemma a field and an update, true by unfolding. -/

namespace Sys2Proof.Machine

@[simp] theorem writeV_cfg (s : State) (i : Reg) (x : Word) : (writeV s i x).cfg = s.cfg := rfl
@[simp] theorem writeV_v (s : State) (i : Reg) (x : Word) : (writeV s i x).v = s.v.set i x := rfl
@[simp] theorem writeV_p (s : State) (i : Reg) (x : Word) : (writeV s i x).p = s.p := rfl
@[simp] theorem writeV_res (s : State) (i : Reg) (x : Word) : (writeV s i x).res = s.res := rfl
@[simp] theorem writeV_status (s : State) (i : Reg) (x : Word) : (writeV s i x).status = s.status := rfl
@[simp] theorem writeV_data (s : State) (i : Reg) (x : Word) : (writeV s i x).data = s.data := rfl
@[simp] theorem writeV_inFlight (s : State) (i : Reg) (x : Word) : (writeV s i x).inFlight = s.inFlight := rfl
@[simp] theorem writeV_ready (s : State) (i : Reg) (x : Word) : (writeV s i x).ready = s.ready := rfl
@[simp] theorem writeV_done (s : State) (i : Reg) (x : Word) : (writeV s i x).done = s.done := rfl
@[simp] theorem writeV_inputs (s : State) (i : Reg) (x : Word) : (writeV s i x).inputs = s.inputs := rfl

@[simp] theorem writeRes_cfg (s : State) (x : Word) : (writeRes s x).cfg = s.cfg := rfl
@[simp] theorem writeRes_v (s : State) (x : Word) : (writeRes s x).v = s.v := rfl
@[simp] theorem writeRes_p (s : State) (x : Word) : (writeRes s x).p = s.p := rfl
@[simp] theorem writeRes_res (s : State) (x : Word) : (writeRes s x).res = x := rfl
@[simp] theorem writeRes_status (s : State) (x : Word) : (writeRes s x).status = s.status := rfl
@[simp] theorem writeRes_data (s : State) (x : Word) : (writeRes s x).data = s.data := rfl
@[simp] theorem writeRes_inFlight (s : State) (x : Word) : (writeRes s x).inFlight = s.inFlight := rfl
@[simp] theorem writeRes_ready (s : State) (x : Word) : (writeRes s x).ready = s.ready := rfl
@[simp] theorem writeRes_done (s : State) (x : Word) : (writeRes s x).done = s.done := rfl
@[simp] theorem writeRes_inputs (s : State) (x : Word) : (writeRes s x).inputs = s.inputs := rfl

@[simp] theorem writeResult_cfg (s : State) (rd : Reg) (x : Word) : (writeResult s rd x).cfg = s.cfg := rfl
@[simp] theorem writeResult_v (s : State) (rd : Reg) (x : Word) : (writeResult s rd x).v = s.v.set rd x := rfl
@[simp] theorem writeResult_p (s : State) (rd : Reg) (x : Word) : (writeResult s rd x).p = s.p := rfl
@[simp] theorem writeResult_res (s : State) (rd : Reg) (x : Word) : (writeResult s rd x).res = x := rfl
@[simp] theorem writeResult_status (s : State) (rd : Reg) (x : Word) : (writeResult s rd x).status = s.status := rfl
@[simp] theorem writeResult_data (s : State) (rd : Reg) (x : Word) : (writeResult s rd x).data = s.data := rfl
@[simp] theorem writeResult_inFlight (s : State) (rd : Reg) (x : Word) : (writeResult s rd x).inFlight = s.inFlight := rfl
@[simp] theorem writeResult_ready (s : State) (rd : Reg) (x : Word) : (writeResult s rd x).ready = s.ready := rfl
@[simp] theorem writeResult_done (s : State) (rd : Reg) (x : Word) : (writeResult s rd x).done = s.done := rfl
@[simp] theorem writeResult_inputs (s : State) (rd : Reg) (x : Word) : (writeResult s rd x).inputs = s.inputs := rfl

@[simp] theorem writeP_cfg (s : State) (b : Bool) : (writeP s b).cfg = s.cfg := rfl
@[simp] theorem writeP_v (s : State) (b : Bool) : (writeP s b).v = s.v := rfl
@[simp] theorem writeP_p (s : State) (b : Bool) : (writeP s b).p = b := rfl
@[simp] theorem writeP_res (s : State) (b : Bool) : (writeP s b).res = s.res := rfl
@[simp] theorem writeP_status (s : State) (b : Bool) : (writeP s b).status = s.status := rfl
@[simp] theorem writeP_data (s : State) (b : Bool) : (writeP s b).data = s.data := rfl
@[simp] theorem writeP_inFlight (s : State) (b : Bool) : (writeP s b).inFlight = s.inFlight := rfl
@[simp] theorem writeP_ready (s : State) (b : Bool) : (writeP s b).ready = s.ready := rfl
@[simp] theorem writeP_done (s : State) (b : Bool) : (writeP s b).done = s.done := rfl
@[simp] theorem writeP_inputs (s : State) (b : Bool) : (writeP s b).inputs = s.inputs := rfl

@[simp] theorem raiseEvent_cfg (s : State) (e : Event) : (raiseEvent s e).cfg = s.cfg := rfl
@[simp] theorem raiseEvent_v (s : State) (e : Event) : (raiseEvent s e).v = s.v := rfl
@[simp] theorem raiseEvent_p (s : State) (e : Event) : (raiseEvent s e).p = s.p := rfl
@[simp] theorem raiseEvent_res (s : State) (e : Event) : (raiseEvent s e).res = s.res := rfl
@[simp] theorem raiseEvent_status (s : State) (e : Event) : (raiseEvent s e).status = setFlag s.status e := rfl
@[simp] theorem raiseEvent_data (s : State) (e : Event) : (raiseEvent s e).data = s.data := rfl
@[simp] theorem raiseEvent_inFlight (s : State) (e : Event) : (raiseEvent s e).inFlight = s.inFlight := rfl
@[simp] theorem raiseEvent_ready (s : State) (e : Event) : (raiseEvent s e).ready = s.ready := rfl
@[simp] theorem raiseEvent_done (s : State) (e : Event) : (raiseEvent s e).done = s.done := rfl
@[simp] theorem raiseEvent_inputs (s : State) (e : Event) : (raiseEvent s e).inputs = s.inputs := rfl

@[simp] theorem clearStatus_cfg (s : State) : (clearStatus s).cfg = s.cfg := rfl
@[simp] theorem clearStatus_v (s : State) : (clearStatus s).v = s.v := rfl
@[simp] theorem clearStatus_p (s : State) : (clearStatus s).p = s.p := rfl
@[simp] theorem clearStatus_res (s : State) : (clearStatus s).res = s.res := rfl
@[simp] theorem clearStatus_status (s : State) : (clearStatus s).status = 0b000#3 := rfl
@[simp] theorem clearStatus_data (s : State) : (clearStatus s).data = s.data := rfl
@[simp] theorem clearStatus_inFlight (s : State) : (clearStatus s).inFlight = s.inFlight := rfl
@[simp] theorem clearStatus_ready (s : State) : (clearStatus s).ready = s.ready := rfl
@[simp] theorem clearStatus_done (s : State) : (clearStatus s).done = s.done := rfl
@[simp] theorem clearStatus_inputs (s : State) : (clearStatus s).inputs = s.inputs := rfl

@[simp] theorem takeSample_cfg (s : State) : (takeSample s).cfg = s.cfg := rfl
@[simp] theorem takeSample_v (s : State) : (takeSample s).v = s.v := rfl
@[simp] theorem takeSample_p (s : State) : (takeSample s).p = s.p := rfl
@[simp] theorem takeSample_res (s : State) : (takeSample s).res = s.res := rfl
@[simp] theorem takeSample_status (s : State) : (takeSample s).status = s.status := rfl
@[simp] theorem takeSample_data (s : State) : (takeSample s).data = s.data := rfl
@[simp] theorem takeSample_inFlight (s : State) : (takeSample s).inFlight = s.inFlight := rfl
@[simp] theorem takeSample_ready (s : State) : (takeSample s).ready = s.ready := rfl
@[simp] theorem takeSample_done (s : State) : (takeSample s).done = s.done := rfl
@[simp] theorem takeSample_inputs (s : State) : (takeSample s).inputs = s.inputs.tail := rfl

@[simp] theorem finish_cfg (s : State) : (finish s).cfg = s.cfg := rfl
@[simp] theorem finish_v (s : State) : (finish s).v = s.v := rfl
@[simp] theorem finish_p (s : State) : (finish s).p = s.p := rfl
@[simp] theorem finish_res (s : State) : (finish s).res = s.res := rfl
@[simp] theorem finish_status (s : State) : (finish s).status = s.status := rfl
@[simp] theorem finish_data (s : State) : (finish s).data = s.data := rfl
@[simp] theorem finish_inFlight (s : State) : (finish s).inFlight = none := rfl
@[simp] theorem finish_ready (s : State) : (finish s).ready = true := rfl
@[simp] theorem finish_done (s : State) : (finish s).done = true := rfl
@[simp] theorem finish_inputs (s : State) : (finish s).inputs = s.inputs := rfl

@[simp] theorem idleEdge_cfg (s : State) : (idleEdge s).cfg = s.cfg := rfl
@[simp] theorem idleEdge_v (s : State) : (idleEdge s).v = s.v := rfl
@[simp] theorem idleEdge_p (s : State) : (idleEdge s).p = s.p := rfl
@[simp] theorem idleEdge_res (s : State) : (idleEdge s).res = s.res := rfl
@[simp] theorem idleEdge_status (s : State) : (idleEdge s).status = s.status := rfl
@[simp] theorem idleEdge_data (s : State) : (idleEdge s).data = s.data := rfl
@[simp] theorem idleEdge_inFlight (s : State) : (idleEdge s).inFlight = s.inFlight := rfl
@[simp] theorem idleEdge_ready (s : State) : (idleEdge s).ready = true := rfl
@[simp] theorem idleEdge_done (s : State) : (idleEdge s).done = false := rfl
@[simp] theorem idleEdge_inputs (s : State) : (idleEdge s).inputs = s.inputs := rfl

@[simp] theorem waitEdge_cfg (s : State) (w : Cmd) (n : Nat) : (waitEdge s w n).cfg = s.cfg := rfl
@[simp] theorem waitEdge_v (s : State) (w : Cmd) (n : Nat) : (waitEdge s w n).v = s.v := rfl
@[simp] theorem waitEdge_p (s : State) (w : Cmd) (n : Nat) : (waitEdge s w n).p = s.p := rfl
@[simp] theorem waitEdge_res (s : State) (w : Cmd) (n : Nat) : (waitEdge s w n).res = s.res := rfl
@[simp] theorem waitEdge_status (s : State) (w : Cmd) (n : Nat) : (waitEdge s w n).status = s.status := rfl
@[simp] theorem waitEdge_data (s : State) (w : Cmd) (n : Nat) : (waitEdge s w n).data = s.data := rfl
@[simp] theorem waitEdge_inFlight (s : State) (w : Cmd) (n : Nat) : (waitEdge s w n).inFlight = some ⟨w, n⟩ := rfl
@[simp] theorem waitEdge_ready (s : State) (w : Cmd) (n : Nat) : (waitEdge s w n).ready = false := rfl
@[simp] theorem waitEdge_done (s : State) (w : Cmd) (n : Nat) : (waitEdge s w n).done = false := rfl
@[simp] theorem waitEdge_inputs (s : State) (w : Cmd) (n : Nat) : (waitEdge s w n).inputs = s.inputs := rfl

@[simp] theorem resetEdge_cfg (s : State) : (resetEdge s).cfg = s.cfg := rfl
@[simp] theorem resetEdge_v (s : State) : (resetEdge s).v = Vector.replicate 8 0#64 := rfl
@[simp] theorem resetEdge_p (s : State) : (resetEdge s).p = false := rfl
@[simp] theorem resetEdge_res (s : State) : (resetEdge s).res = 0#64 := rfl
@[simp] theorem resetEdge_status (s : State) : (resetEdge s).status = 0b000#3 := rfl
@[simp] theorem resetEdge_data (s : State) : (resetEdge s).data = 0#64 := rfl
@[simp] theorem resetEdge_inFlight (s : State) : (resetEdge s).inFlight = none := rfl
@[simp] theorem resetEdge_ready (s : State) : (resetEdge s).ready = false := rfl
@[simp] theorem resetEdge_done (s : State) : (resetEdge s).done = false := rfl
@[simp] theorem resetEdge_inputs (s : State) : (resetEdge s).inputs = s.inputs := rfl

end Sys2Proof.Machine
end

