-- ==== Sys2Proof/Laws/Exec.lean ====
section
/-! SUPPORT. What the shared operations and a command as a whole can do: one lemma an operation, which later proofs cite in
place of unfolding it. -/

namespace Sys2Proof.Machine

theorem sameOutside_refl (s : State) : SameOutside s s := ⟨rfl, rfl, rfl, rfl, rfl, rfl⟩

/-- Everything that `writeResult` does (R28). -/
theorem writeResult_resultIn (s : State) (rd : Reg) (x : Word) :
    ResultIn s (writeResult s rd x) rd x ∧ (writeResult s rd x).status = s.status := by
  refine ⟨⟨?_, rfl, ?_, rfl, sameOutside_refl _⟩, rfl⟩
  · simp
  · intro k hk
    have : rd.val ≠ k.val := fun h => hk (Fin.ext h.symm)
    simp [this]

/-- Everything that `writeP` does (R24). -/
theorem writeP_predicateIn (s : State) (b : Bool) : PredicateIn s (writeP s b) b :=
  ⟨rfl, fun _ => rfl, rfl, rfl, sameOutside_refl _⟩

/-- Everything that `writeConversion` does to the registers, and to STATUS (R102, R103). -/
theorem writeConversion_resultIn (s : State) (rd : Reg) (x : FpValue) :
    ResultIn s (writeConversion s rd x) rd (conv s.cfg x).1 ∧
      (writeConversion s rd x).status = if (conv s.cfg x).2 then setFlag s.status .nv else s.status := by
  have h := writeResult_resultIn s rd (conv s.cfg x).1
  unfold writeConversion
  by_cases hb : (conv s.cfg x).2 = true
  · simp only [hb, if_true]
    exact ⟨h.1, rfl⟩
  · simp only [hb]
    exact h

/-- A conversion's pattern fits the width (R100). -/
theorem conv_fits (c : Config) (x : FpValue) : FitsWidth c (conv c x).1 := by
  cases x with
  | real x => exact wrap_fits ..
  | _ => exact two_pow_bits_pos c

/-- The architectural part after a conversion. -/
theorem writeConversion_arch (s : State) (rd : Reg) (x : FpValue) :
    (writeConversion s rd x).arch =
      ⟨s.cfg, s.v.set rd (conv s.cfg x).1, s.p, (conv s.cfg x).1,
        if (conv s.cfg x).2 then setFlag s.status .nv else s.status⟩ := by
  unfold writeConversion
  by_cases hb : (conv s.cfg x).2 = true <;> simp [hb, State.arch]

/-- A conversion keeps every register a pattern of `W` bits (R100). -/
theorem writeConversion_fits (s : State) (rd : Reg) (x : FpValue) (h : s.PatternsFit) :
    (writeConversion s rd x).PatternsFit := by
  obtain ⟨⟨h1, h2, h3, -, hc, -⟩, -⟩ := writeConversion_resultIn s rd x
  have hx := conv_fits s.cfg x
  refine ⟨fun k => ?_, by rw [h2, hc]; exact hx⟩
  rw [hc]
  by_cases hk : k = rd
  · rw [hk, h1]; exact hx
  · rw [h3 k hk]; exact h.1 k

/-- LDRAW's operand is DATA modulo `2^W` (R52, R202). -/
theorem dataRaw_toNat (s : State) : (dataRaw s).toNat = s.data.toNat % 2 ^ s.cfg.bits := by
  have h1 := Nat.mod_lt s.data.toNat (two_pow_bits_pos s.cfg)
  have h2 := two_pow_bits_le s.cfg
  unfold dataRaw zext
  rw [BitVec.toNat_setWidth, BitVec.extractLsb'_toNat, Nat.shiftRight_zero]
  exact Nat.mod_eq_of_lt (by omega)

/-- A result that fits keeps every register a pattern of `W` bits (R21, R28). -/
theorem writeResult_fits (s : State) (rd : Reg) (x : Word) (h : s.PatternsFit) (hx : FitsWidth s.cfg x) :
    (writeResult s rd x).PatternsFit := by
  obtain ⟨⟨h1, h2, h3, -, -⟩, -⟩ := writeResult_resultIn s rd x
  refine ⟨fun k => ?_, by rw [h2]; exact hx⟩
  by_cases hk : k = rd
  · rw [hk, h1]; exact hx
  · rw [h3 k hk]; exact h.1 k

/-- DIV by zero: all ones, and the DZ event (R181). -/
theorem exec_div_zero (rd a b : Reg) (s : State) (h : val s.cfg s.v[b] = 0) :
    exec (.div rd a b) s = .next (raiseEvent (writeResult s rd (wrap s.cfg (-1))) .dz) := if_pos h

/-- DIV by a nonzero divisor: the rescaled, truncated quotient (R181). -/
theorem exec_div_nonzero (rd a b : Reg) (s : State) (h : val s.cfg s.v[b] ≠ 0) :
    exec (.div rd a b) s =
      .next (writeResult s rd (wrap s.cfg (tdiv (val s.cfg s.v[a] * s.cfg.scale) (val s.cfg s.v[b])))) := if_neg h

/-- A command always answers a next state, which differs from the state at most in the architectural part, and keeps every
register a pattern of `W` bits (R220, R21). -/
theorem exec_total (i : Instr) (s : State) :
    ∃ t, exec i s = .next t ∧ SameOutside s t ∧ (s.PatternsFit → t.PatternsFit) := by
  cases i with
  | nop | clrst => exact ⟨_, rfl, sameOutside_refl s, id⟩
  | ceq | cne | clt | cle | cgt | cge => exact ⟨_, rfl, sameOutside_refl s, id⟩
  | rd a => exact ⟨_, rfl, sameOutside_refl s, fun h => ⟨h.1, h.1 a⟩⟩
  | zero rd =>
    exact ⟨_, rfl, sameOutside_refl s, fun h => writeResult_fits s rd _ h (two_pow_bits_pos s.cfg)⟩
  | mov rd a => exact ⟨_, rfl, sameOutside_refl s, fun h => writeResult_fits s rd _ h (h.1 a)⟩
  | ldraw rd =>
    refine ⟨_, rfl, sameOutside_refl s, fun h => writeResult_fits s rd _ h ?_⟩
    unfold FitsWidth
    rw [dataRaw_toNat]
    exact Nat.mod_lt _ (two_pow_bits_pos s.cfg)
  | cvts rd =>
    exact ⟨_, rfl, (writeConversion_resultIn s rd _).1.2.2.2.2, fun h => writeConversion_fits s rd _ h⟩
  | cvtd rd =>
    exact ⟨_, rfl, (writeConversion_resultIn s rd _).1.2.2.2.2, fun h => writeConversion_fits s rd _ h⟩
  | add rd | sub rd | inc rd | dec rd | shl rd | shr rd | mul rd =>
    exact ⟨_, rfl, sameOutside_refl s, fun h => writeResult_fits s rd _ h (wrap_fits ..)⟩
  | div rd a b =>
    by_cases hb : val s.cfg s.v[b] = 0
    · exact ⟨_, exec_div_zero rd a b s hb, sameOutside_refl s, fun h => writeResult_fits s rd _ h (wrap_fits ..)⟩
    · exact ⟨_, exec_div_nonzero rd a b s hb, sameOutside_refl s, fun h => writeResult_fits s rd _ h (wrap_fits ..)⟩

/-- A command reads and writes the architectural state and reads the data operand, nothing else (R30). -/
theorem exec_arch_congr (i : Instr) (s s' t : State) (ha : s.arch = s'.arch) (hd : s.data = s'.data)
    (h : exec i s = .next t) : ∃ t', exec i s' = .next t' ∧ t'.arch = t.arch := by
  obtain ⟨cfg, v, p, res, status, data, fl, rdy, dn, ins⟩ := s
  obtain ⟨cfg', v', p', res', status', data', fl', rdy', dn', ins'⟩ := s'
  simp only [State.arch, Arch.mk.injEq] at ha
  obtain ⟨rfl, rfl, rfl, rfl, rfl⟩ := ha
  cases hd
  cases i with
  | cvts rd | cvtd rd =>
    cases h
    exact ⟨_, rfl, by rw [writeConversion_arch, writeConversion_arch]; rfl⟩
  | div rd a b =>
    by_cases hb : val cfg v[b] = 0
    · rw [exec_div_zero rd a b _ hb] at h; cases h
      exact ⟨_, exec_div_zero rd a b _ hb, rfl⟩
    · rw [exec_div_nonzero rd a b _ hb] at h; cases h
      exact ⟨_, exec_div_nonzero rd a b _ hb, rfl⟩
  | _ => cases h; exact ⟨_, rfl, rfl⟩

/-- What a command word does as one step: its command's effect, or the ILL event (R17, R77, R221). -/
theorem runWord_cases (w : Cmd) (s : State) :
    (∃ i, decode w = .ok i ∧ runWord w s = exec i s) ∨
      ((∃ e, decode w = .error e) ∧ runWord w s = .next (raiseEvent s .ill)) := by
  unfold runWord
  cases h : decode w with
  | ok i => exact .inl ⟨i, rfl, rfl⟩
  | error e => exact .inr ⟨⟨e, rfl⟩, rfl⟩

/-- A command word always answers a next state, which differs from the state at most in the architectural part (R220). -/
theorem runWord_total (w : Cmd) (s : State) :
    ∃ t, runWord w s = .next t ∧ SameOutside s t ∧ (s.PatternsFit → t.PatternsFit) := by
  obtain ⟨i, -, h⟩ | ⟨-, h⟩ := runWord_cases w s
  · rw [h]; exact exec_total i s
  · exact ⟨_, h, sameOutside_refl s, id⟩

/-- Two states with one architectural part and one data operand run a word to one architectural part (R30). -/
theorem runWord_arch_congr (w : Cmd) (s s' t : State) (ha : s.arch = s'.arch) (hd : s.data = s'.data)
    (h : runWord w s = .next t) : ∃ t', runWord w s' = .next t' ∧ t'.arch = t.arch := by
  unfold runWord at h ⊢
  split at h
  · exact exec_arch_congr _ s s' t ha hd h
  · cases h
    refine ⟨_, rfl, ?_⟩
    simp only [State.arch, Arch.mk.injEq] at ha ⊢
    simp_all

end Sys2Proof.Machine
end

