-- ==== Sys2Proof/Laws/PerInstr.lean ====
section
/-! SUPPORT. A claim about every command as syntax, one lemma a constructor: a well-formed command's word lies in the row
of its opcode (spec 30_encoding.md R72, R76, R77). -/

namespace Sys2Proof.Laws

-- One theorem after another: many waiting for the kernel at once would each hold a thread.
set_option Elab.async false

/-- The word of a well-formed command has its opcode, and 0 at every other bit that its format fixes (R72, R77). -/
def EncodesInRow.Statement (i : Instr) : Prop :=
  i.wf = true → encode i &&& i.format.mask = BitVec.ofNat 32 i.opcode <<< 24 ∧ opcodeField (encode i) = i.opcode

/-- A well-formed shift amount is one of the 64 the field holds. -/
theorem shiftAmount_of_fits (sh : Nat) (h : shiftAmountFits sh = true) : ∃ k : Fin 64, sh = k :=
  ⟨⟨sh, by simpa [shiftAmountFits] using h⟩, rfl⟩

theorem EncodesInRow.nop : EncodesInRow.Statement .nop := fun _ => by decide

theorem EncodesInRow.zero (rd : Reg) : EncodesInRow.Statement (.zero rd) := by
  intro _
  revert rd
  decide +kernel

theorem EncodesInRow.mov (rd rs1 : Reg) : EncodesInRow.Statement (.mov rd rs1) := by
  intro _
  revert rd rs1
  decide +kernel

theorem EncodesInRow.cvts (rd : Reg) : EncodesInRow.Statement (.cvts rd) := by
  intro _
  revert rd
  decide +kernel

theorem EncodesInRow.cvtd (rd : Reg) : EncodesInRow.Statement (.cvtd rd) := by
  intro _
  revert rd
  decide +kernel

theorem EncodesInRow.ldraw (rd : Reg) : EncodesInRow.Statement (.ldraw rd) := by
  intro _
  revert rd
  decide +kernel

theorem EncodesInRow.rd (rs1 : Reg) : EncodesInRow.Statement (.rd rs1) := by
  intro _
  revert rs1
  decide +kernel

theorem EncodesInRow.clrst : EncodesInRow.Statement .clrst := fun _ => by decide

theorem EncodesInRow.add (rd rs1 rs2 : Reg) : EncodesInRow.Statement (.add rd rs1 rs2) := by
  intro _
  revert rd rs1 rs2
  decide +kernel

theorem EncodesInRow.sub (rd rs1 rs2 : Reg) : EncodesInRow.Statement (.sub rd rs1 rs2) := by
  intro _
  revert rd rs1 rs2
  decide +kernel

theorem EncodesInRow.inc (rd rs1 : Reg) : EncodesInRow.Statement (.inc rd rs1) := by
  intro _
  revert rd rs1
  decide +kernel

theorem EncodesInRow.dec (rd rs1 : Reg) : EncodesInRow.Statement (.dec rd rs1) := by
  intro _
  revert rd rs1
  decide +kernel

theorem EncodesInRow.shl (rd rs1 : Reg) (sh : Nat) : EncodesInRow.Statement (.shl rd rs1 sh) := by
  intro h
  obtain ⟨k, rfl⟩ := shiftAmount_of_fits sh h
  clear h
  revert rd rs1 k
  decide +kernel

theorem EncodesInRow.shr (rd rs1 : Reg) (sh : Nat) : EncodesInRow.Statement (.shr rd rs1 sh) := by
  intro h
  obtain ⟨k, rfl⟩ := shiftAmount_of_fits sh h
  clear h
  revert rd rs1 k
  decide +kernel

theorem EncodesInRow.mul (rd rs1 rs2 : Reg) : EncodesInRow.Statement (.mul rd rs1 rs2) := by
  intro _
  revert rd rs1 rs2
  decide +kernel

theorem EncodesInRow.div (rd rs1 rs2 : Reg) : EncodesInRow.Statement (.div rd rs1 rs2) := by
  intro _
  revert rd rs1 rs2
  decide +kernel

theorem EncodesInRow.ceq (rs1 rs2 : Reg) : EncodesInRow.Statement (.ceq rs1 rs2) := by
  intro _
  revert rs1 rs2
  decide +kernel

theorem EncodesInRow.cne (rs1 rs2 : Reg) : EncodesInRow.Statement (.cne rs1 rs2) := by
  intro _
  revert rs1 rs2
  decide +kernel

theorem EncodesInRow.clt (rs1 rs2 : Reg) : EncodesInRow.Statement (.clt rs1 rs2) := by
  intro _
  revert rs1 rs2
  decide +kernel

theorem EncodesInRow.cle (rs1 rs2 : Reg) : EncodesInRow.Statement (.cle rs1 rs2) := by
  intro _
  revert rs1 rs2
  decide +kernel

theorem EncodesInRow.cgt (rs1 rs2 : Reg) : EncodesInRow.Statement (.cgt rs1 rs2) := by
  intro _
  revert rs1 rs2
  decide +kernel

theorem EncodesInRow.cge (rs1 rs2 : Reg) : EncodesInRow.Statement (.cge rs1 rs2) := by
  intro _
  revert rs1 rs2
  decide +kernel

end Sys2Proof.Laws
end

