-- ==== Sys2Proof/Laws/Step.lean ====
section
/-! SUPPORT. What one clock edge can do, said once (spec 70_reset_and_hazards.md R240, R243). -/

namespace Sys2Proof.Machine

/-- The six things an edge can do. -/
theorem step_cases (s : State) :
    ((portIn s).rst = true ∧ step s = .next (resetEdge (takeSample s))) ∨
    ((portIn s).rst = false ∧ ∃ f, s.inFlight = some f ∧ f.left ≤ 1 ∧ step s = completeEdge f.cmd (takeSample s)) ∨
    ((portIn s).rst = false ∧ ∃ f, s.inFlight = some f ∧ 1 < f.left ∧
      step s = .next (waitEdge (takeSample s) f.cmd (f.left - 1))) ∨
    (accepts s = true ∧ latency s.cfg (portIn s).cmd = 1 ∧
      step s = completeEdge (portIn s).cmd { takeSample s with data := (portIn s).data }) ∨
    (accepts s = true ∧ 1 < latency s.cfg (portIn s).cmd ∧
      step s = .next (waitEdge { takeSample s with data := (portIn s).data } (portIn s).cmd
        (latency s.cfg (portIn s).cmd - 1))) ∨
    ((portIn s).rst = false ∧ s.inFlight = none ∧ accepts s = false ∧ step s = .next (idleEdge (takeSample s))) := by
  have hlat : 1 ≤ latency s.cfg (portIn s).cmd := by
    unfold latency; split
    · exact Nat.le_add_left ..
    · exact Nat.le_refl _
  unfold step clockEdge
  cases hr : (portIn s).rst with
  | true => exact .inl ⟨rfl, by simp⟩
  | false =>
    right
    cases hf : s.inFlight with
    | some f =>
      by_cases hl : f.left ≤ 1
      · exact .inl ⟨rfl, f, rfl, hl, by simp [runEdge, hf, hl]⟩
      · exact .inr (.inl ⟨rfl, f, rfl, by omega, by simp [runEdge, hf, hl]⟩)
    | none =>
      right; right
      by_cases ha : ((portIn s).cmdValid && s.ready) = true
      · have hacc : accepts s = true := by simp_all [accepts]
        by_cases hl : latency s.cfg (portIn s).cmd = 1
        · exact .inl ⟨hacc, hl, by simp [runEdge, hf, ha, acceptEdge, hl]⟩
        · exact .inr (.inl ⟨hacc, by omega, by simp [runEdge, hf, ha, acceptEdge, hl]⟩)
      · have hacc : accepts s = false := by simp_all [accepts]
        exact .inr (.inr ⟨rfl, rfl, hacc, by simp [runEdge, hf, ha]⟩)

/-- Accepting says what the ports and the handshake are (R243(a)). -/
theorem accepts_iff (s : State) :
    accepts s = true ↔
      (portIn s).rst = false ∧ (portIn s).cmdValid = true ∧ s.ready = true ∧ s.inFlight = none := by
  unfold accepts
  cases (portIn s).rst <;> cases (portIn s).cmdValid <;> cases s.ready <;> cases s.inFlight <;> simp

/-- A completion edge runs the word as one step and raises `done` (R243(b), (d)). -/
theorem completeEdge_total (w : Cmd) (s : State) :
    ∃ t, completeEdge w s = .next t ∧ runWord w (finish s) = .next t ∧ SameOutside (finish s) t ∧
      (s.PatternsFit → t.PatternsFit) := by
  obtain ⟨t, h, ho, hp⟩ := runWord_total w (finish s)
  exact ⟨t, h, h, ho, hp⟩

/-- Every edge answers a next state (R220). -/
theorem step_total (s : State) : ∃ t, step s = .next t := by
  obtain ⟨-, h⟩ | ⟨-, f, -, -, h⟩ | ⟨-, f, -, -, h⟩ | ⟨-, -, h⟩ | ⟨-, -, h⟩ | ⟨-, -, -, h⟩ := step_cases s <;> rw [h]
  case inr.inl => obtain ⟨t, ht, -⟩ := completeEdge_total f.cmd (takeSample s); exact ⟨t, ht⟩
  case inr.inr.inr.inl => obtain ⟨t, ht, -⟩ := completeEdge_total (portIn s).cmd _; exact ⟨t, ht⟩
  all_goals exact ⟨_, rfl⟩

/-- No edge at all leaves the state. -/
theorem core_run_zero (s : State) : Sys2Proof.core.run 0 s = .next s := rfl

/-- A run takes one edge and goes on from there. -/
theorem core_run_succ (k : Nat) (s t : State) (h : step s = .next t) :
    Sys2Proof.core.run (k + 1) s = Sys2Proof.core.run k t := by
  have h' : Sys2Proof.core.step s = .next t := h
  simp only [Host.Core.run, h']

/-- Every edge takes one sample, whatever it does. -/
theorem step_inputs (s t : State) (h : step s = .next t) : t.inputs = s.inputs.tail := by
  obtain ⟨-, h'⟩ | ⟨-, f, -, -, h'⟩ | ⟨-, f, -, -, h'⟩ | ⟨-, -, h'⟩ | ⟨-, -, h'⟩ | ⟨-, -, -, h'⟩ := step_cases s <;>
    rw [h'] at h
  case inr.inl =>
    obtain ⟨u, hu, -, ho, -⟩ := completeEdge_total f.cmd (takeSample s)
    rw [hu] at h; cases h; exact ho.2.2.2.2.2
  case inr.inr.inr.inl =>
    obtain ⟨u, hu, -, ho, -⟩ := completeEdge_total (portIn s).cmd { takeSample s with data := (portIn s).data }
    rw [hu] at h; cases h; exact ho.2.2.2.2.2
  all_goals cases h; rfl

end Sys2Proof.Machine
end

