-- ==== Sys2Proof/Machine/Assembler.lean ====
section
/-! DEFINITION. The assembler's side of the command set: the syntax, the pseudo-instructions and the pattern nearest a real
literal (spec 30_encoding.md R80, R81). All of it happens outside CORE, which only sees the word and the pattern. -/

namespace Sys2Proof.Machine

/-- `ADDA rd, rs`: `a += b` (R81). -/
def pseudoAdda (rd rs : Reg) : Instr := .add rd rd rs

/-- `SUBA rd, rs`: `a -= b` (R81). -/
def pseudoSuba (rd rs : Reg) : Instr := .sub rd rd rs

/-- `MULA rd, rs`: `a *= b` (R81). -/
def pseudoMula (rd rs : Reg) : Instr := .mul rd rd rs

/-- `DIVA rd, rs`: `a /= b` (R81). -/
def pseudoDiva (rd rs : Reg) : Instr := .div rd rd rs

/-- `INCR rd`: `++a` (R81). -/
def pseudoIncr (rd : Reg) : Instr := .inc rd rd

/-- `DECR rd`: `--a` (R81). -/
def pseudoDecr (rd : Reg) : Instr := .dec rd rd

/-- The integer nearest a nonnegative rational, ties to even (R81). -/
def nearestEven (y : ℚ) : Nat :=
  let f := ⌊y⌋.toNat
  let r := y - f
  if r < 1 / 2 then f else if 1 / 2 < r then f + 1 else if f % 2 = 0 then f else f + 1

/-- The exponent `e` with `2^e <= a < 2^(e+1)`, for a positive rational. -/
def binaryExponent (a : ℚ) : Int :=
  let e : Int := (a.num.natAbs.log2 : Int) - a.den.log2
  if a < 2 ^ e then e - 1 else e

/-- The magnitude part of the pattern nearest a positive real, in the layout of R15 with `mBits` fraction bits, greatest
exponent field `eMax` and least unit `2^eMin`: a value past the greatest finite one gives the infinity (log 14). -/
def nearestMagnitude (eMax mBits : Nat) (eMin : Int) (a : ℚ) : Nat :=
  let k := max (binaryExponent a - mBits) eMin
  min ((k - eMin).toNat * 2 ^ mBits + nearestEven (a / 2 ^ k)) (eMax * 2 ^ mBits)

/-- The binary32 pattern nearest a real literal (R81). -/
def literalSingle (x : ℚ) : BitVec 32 :=
  if x = 0 then 0#32
  else BitVec.ofNat 32 ((if x < 0 then 2 ^ 31 else 0) + nearestMagnitude 0xFF 23 (-149) |x|)

/-- The binary64 pattern nearest a real literal (R81). -/
def literalDouble (x : ℚ) : Data :=
  if x = 0 then 0#64
  else BitVec.ofNat 64 ((if x < 0 then 2 ^ 63 else 0) + nearestMagnitude 0x7FF 52 (-1074) |x|)

/-- `CVTS rd, =<real>`: the command and its data operand (R81). -/
def pseudoCvts (rd : Reg) (x : ℚ) : Instr × Data := (.cvts rd, (literalSingle x).setWidth 64)

/-- `CVTD rd, =<real>`: the command and its data operand (R81). -/
def pseudoCvtd (rd : Reg) (x : ℚ) : Instr × Data := (.cvtd rd, literalDouble x)

/-- One hexadecimal digit (R12). -/
def hexDigit (n : Nat) : String :=
  (["0", "1", "2", "3", "4", "5", "6", "7", "8", "9", "A", "B", "C", "D", "E", "F"][n % 16]?).getD ""

/-- The last `digits` hexadecimal digits of a number (R12). -/
def hexDigits : Nat → Nat → String
  | 0, _ => ""
  | digits + 1, n => hexDigits digits (n / 16) ++ hexDigit n

/-- `v0` to `v7` (R80). -/
def regName (r : Reg) : String := "v" ++ toString r.val

/-- The data operand `#0x<hex>` of so many bits (R80). -/
def operandText (bits : Nat) (d : Data) : String := ", #0x" ++ hexDigits (bits / 4) d.toNat

/-- One line of assembly: the mnemonic, a space, the operands separated by commas (R80). -/
def assembly (c : Config) (d : Data) : Instr → String
  | .nop => "NOP"
  | .zero rd => "ZERO " ++ regName rd
  | .mov rd rs1 => "MOV " ++ regName rd ++ ", " ++ regName rs1
  | .cvts rd => "CVTS " ++ regName rd ++ operandText 32 d
  | .cvtd rd => "CVTD " ++ regName rd ++ operandText 64 d
  | .ldraw rd => "LDRAW " ++ regName rd ++ operandText c.bits d
  | .rd rs1 => "RD " ++ regName rs1
  | .clrst => "CLRST"
  | .add rd rs1 rs2 => "ADD " ++ regName rd ++ ", " ++ regName rs1 ++ ", " ++ regName rs2
  | .sub rd rs1 rs2 => "SUB " ++ regName rd ++ ", " ++ regName rs1 ++ ", " ++ regName rs2
  | .inc rd rs1 => "INC " ++ regName rd ++ ", " ++ regName rs1
  | .dec rd rs1 => "DEC " ++ regName rd ++ ", " ++ regName rs1
  | .shl rd rs1 sh => "SHL " ++ regName rd ++ ", " ++ regName rs1 ++ ", " ++ toString sh
  | .shr rd rs1 sh => "SHR " ++ regName rd ++ ", " ++ regName rs1 ++ ", " ++ toString sh
  | .mul rd rs1 rs2 => "MUL " ++ regName rd ++ ", " ++ regName rs1 ++ ", " ++ regName rs2
  | .div rd rs1 rs2 => "DIV " ++ regName rd ++ ", " ++ regName rs1 ++ ", " ++ regName rs2
  | .ceq rs1 rs2 => "CEQ " ++ regName rs1 ++ ", " ++ regName rs2
  | .cne rs1 rs2 => "CNE " ++ regName rs1 ++ ", " ++ regName rs2
  | .clt rs1 rs2 => "CLT " ++ regName rs1 ++ ", " ++ regName rs2
  | .cle rs1 rs2 => "CLE " ++ regName rs1 ++ ", " ++ regName rs2
  | .cgt rs1 rs2 => "CGT " ++ regName rs1 ++ ", " ++ regName rs2
  | .cge rs1 rs2 => "CGE " ++ regName rs1 ++ ", " ++ regName rs2

end Sys2Proof.Machine
end

