-- ==== Sys2Proof/Tests/Slice0.lean ====
section
/-! SUPPORT. The model's own tests: every expected value is the spec's (95_test_vectors.md, the rules' examples), or is
computed by hand from the rule that the comment names. -/

namespace Sys2Proof.Tests

open Sys2Proof.Machine

-- One theorem after another: many waiting for the kernel at once would each hold a thread.
set_option Elab.async false

/-! ### Well-formedness -/

theorem test_wf_refuses_shl_by_64 : Instr.wf (.shl 0 0 64) = false := by decide

theorem test_wf_refuses_shr_by_64 : Instr.wf (.shr 0 0 64) = false := by decide

theorem test_wf_takes_shifts_by_63 : Instr.wf (.shl 7 7 63) = true ∧ Instr.wf (.shr 7 7 63) = true := by decide

/-! ### Configurations -/

/-- Every latency 1. -/
def fast : Vector Nat 22 := Vector.replicate 22 0

/-- An instance by its numbers; the tests below use legal ones. -/
def inst (w : Nat) (signed : Bool) (i f : Nat) : Config := (Config.build w signed i (some f) fast).getD Config.default

/-- R6: 8, 16, 32 and 64 and no other width. -/
theorem test_build_refuses_width_13 : Config.build 13 true 8 none fast = none := by decide

/-- R7: `I + F <= W`, 16 allowed and 17 not for `W` = 16. -/
theorem test_build_checks_the_split :
    Config.build 16 true 8 (some 9) fast = none ∧ (Config.build 16 true 8 (some 8) fast).isSome = true ∧
      Config.build 16 true 17 none fast = none := by decide

/-- R3, R6: `F` defaults to `W - I`, and the name of R9's instance. -/
theorem test_build_default_fraction :
    Config.build 16 true 8 none fast = some Config.default ∧ Config.default.name = "FXP16S.I8.F8" := by decide +kernel

/-! ### Decoding: one word for each command, from the spec's examples and vectors -/

theorem test_decode_words_0 :
    decode 0x00000000#32 = .ok .nop ∧ decode 0x01500000#32 = .ok (.zero 5) ∧ decode 0x02410000#32 = .ok (.mov 4 1) ∧
      decode 0x03100000#32 = .ok (.cvts 1) ∧ decode 0x04200000#32 = .ok (.cvtd 2) ∧
      decode 0x05400000#32 = .ok (.ldraw 4) ∧ decode 0x06030000#32 = .ok (.rd 3) ∧
      decode 0x07000000#32 = .ok .clrst := by decide

theorem test_decode_words_1 :
    decode 0x10312000#32 = .ok (.add 3 1 2) ∧ decode 0x11501000#32 = .ok (.sub 5 0 1) ∧
      decode 0x12310000#32 = .ok (.inc 3 1) ∧ decode 0x13210000#32 = .ok (.dec 2 1) ∧
      decode 0x18210001#32 = .ok (.shl 2 1 1) ∧ decode 0x1930003F#32 = .ok (.shr 3 0 63) := by decide

theorem test_decode_words_2 :
    decode 0x20312000#32 = .ok (.mul 3 1 2) ∧ decode 0x21432000#32 = .ok (.div 4 3 2) ∧
      decode 0x30034000#32 = .ok (.ceq 3 4) ∧ decode 0x31012000#32 = .ok (.cne 1 2) ∧
      decode 0x32040000#32 = .ok (.clt 4 0) ∧ decode 0x33012000#32 = .ok (.cle 1 2) ∧
      decode 0x34012000#32 = .ok (.cgt 1 2) ∧ decode 0x35010000#32 = .ok (.cge 1 0) := by decide

/-- The other way: the encoder gives the same words (R71). -/
theorem test_encode_words :
    encode (.cvtd 5) = 0x04500000#32 ∧ encode (.div 6 1 5) = 0x21615000#32 ∧ encode (.shl 3 1 63) = 0x1831003F#32 ∧
      encode (.clt 4 0) = 0x32040000#32 ∧ encode (.rd 4) = 0x06040000#32 := by decide

/-- The word is the whole of 32 bits, and the table's numbering gives it unchanged. -/
theorem test_decode_table_word :
    decodeTableWord 32 0x21615000 = some (.div 6 1 5) ∧ decodeTableWord 32 0x08000000 = none ∧
      decodeTableWord 64 0x100000000 = none := by decide

/-- V-IL1 to V-IL4: reserved opcodes (R78(a)). -/
theorem test_illegal_opcodes :
    [0x08000000#32, 0xFF000000#32, 0x22000000#32, 0x36000000#32].all
      (fun w => decode w = .error .reservedOpcode) = true := by decide

/-- V-IL9, V-IL14: reserved bits (R78(b)); V-IL5 to V-IL8, V-IL10 to V-IL13: unused fields (R78(c)). -/
theorem test_illegal_bits_and_fields :
    [0x10B12000#32, 0x18310040#32].all (fun w => decode w = .error .reservedBit) = true ∧
      [0x00000001#32, 0x00100000#32, 0x07000001#32, 0x10312001#32, 0x01310000#32, 0x02412000#32, 0x06310000#32,
        0x30312000#32].all (fun w => decode w = .error .unusedField) = true := by decide

/-! ### The commands: `V3`, RES and STATUS after one word (sections 2 and 3 of 95_test_vectors.md) -/

/-- The reset state of an instance with `V1`, `V2`, STATUS and DATA set. -/
def start (c : Config) (v1 v2 : Word) (status : BitVec 3) (d : Data) : State :=
  { State.resetOf c with v := #v[0#64, v1, v2, 0#64, 0#64, 0#64, 0#64, 0#64], status := status, data := d }

/-- `V3`, RES and STATUS after the word. -/
def shows (w : Cmd) (s : State) : Option (Word × Word × BitVec 3) :=
  match runWord w s with
  | .next t => some (t.v[3], t.res, t.status)
  | .fault _ => none
  | .refused _ => none

/-- `x` in `V3` and RES, with this STATUS. -/
def gives (x : Word) (status : BitVec 3) : Option (Word × Word × BitVec 3) := some (x, x, status)

/-- The word run on two registers, STATUS clear. -/
def on (c : Config) (v1 v2 : Word) (w : Cmd) : Option (Word × Word × BitVec 3) := shows w (start c v1 v2 0b000#3 0#64)

/-- The word run on a data operand. -/
def from_ (c : Config) (d : Data) (w : Cmd) : Option (Word × Word × BitVec 3) := shows w (start c 0#64 0#64 0b000#3 d)

/-- The predicate after the word, on two registers; the registers and RES must be as before. -/
def holds (c : Config) (v1 v2 : Word) (w : Cmd) : Option Bool :=
  match runWord w (start c v1 v2 0b000#3 0#64) with
  | .next t => if t = { start c v1 v2 0b000#3 0#64 with p := t.p } then some t.p else none
  | .fault _ => none
  | .refused _ => none

/-- R9's instance. -/
abbrev s16 : Config := Config.default

/-- `FXP16U.I8.F8`. -/
def u16 : Config := inst 16 false 8 8

theorem test_zero : -- V-CV1, with V3 not zero before
    shows 0x01300000#32 { start s16 0#64 0#64 0b010#3 0#64 with v := Vector.replicate 8 0x1234#64 } =
      gives 0#64 0b010#3 := by decide

theorem test_cvts_finite : -- V-CV2, V-CV5, V-CV8, V-CV9, V-CV16, V-CV17, V-CV7
    from_ s16 0x3FC00000#64 0x03300000#32 = gives 0x0180#64 0b000#3 ∧
      from_ s16 0xBB000000#64 0x03300000#32 = gives 0xFFFF#64 0b000#3 ∧
      from_ s16 0x43480000#64 0x03300000#32 = gives 0xC800#64 0b000#3 ∧
      from_ s16 0x3AFFFFFF#64 0x03300000#32 = gives 0#64 0b000#3 ∧
      from_ u16 0xBFC00000#64 0x03300000#32 = gives 0xFE80#64 0b000#3 ∧
      from_ s16 0xDEADBEEF3FC00000#64 0x03300000#32 = gives 0x0180#64 0b000#3 ∧
      from_ s16 0x1#64 0x03300000#32 = gives 0#64 0b000#3 := by decide +kernel

theorem test_cvts_invalid : -- V-CV10, V-CV12, V-CV45
    from_ s16 0x7FC00000#64 0x03300000#32 = gives 0#64 0b100#3 ∧
      from_ s16 0xFF800000#64 0x03300000#32 = gives 0#64 0b100#3 ∧
      shows 0x03300000#32 (start s16 0#64 0#64 0b010#3 0x7FC00000#64) = gives 0#64 0b110#3 := by decide +kernel

theorem test_cvtd_finite : -- V-CV22 to V-CV24, V-CV26, V-CV29, V-CV32, V-CV33, V-CV28
    from_ s16 0xBF60000000000000#64 0x04300000#32 = gives 0xFFFF#64 0b000#3 ∧
      from_ s16 0x3F84000000000000#64 0x04300000#32 = gives 0x0003#64 0b000#3 ∧
      from_ s16 0xBF84000000000000#64 0x04300000#32 = gives 0xFFFD#64 0b000#3 ∧
      from_ s16 0x3F5FFFFFFFFFFFFF#64 0x04300000#32 = gives 0#64 0b000#3 ∧
      from_ s16 0x405FFFC000000000#64 0x04300000#32 = gives 0x7FFF#64 0b000#3 ∧
      from_ s16 0x4070080000000000#64 0x04300000#32 = gives 0x0080#64 0b000#3 ∧
      from_ s16 0x4630000000000000#64 0x04300000#32 = gives 0#64 0b000#3 ∧
      from_ s16 0x1#64 0x04300000#32 = gives 0#64 0b000#3 := by decide +kernel

theorem test_cvtd_instances : -- V-CV41 to V-CV44, V-CV36
    from_ (inst 16 true 16 0) 0xC004000000000000#64 0x04300000#32 = gives 0xFFFD#64 0b000#3 ∧
      from_ (inst 32 true 16 16) 0x3FE0000000000000#64 0x04300000#32 = gives 0x8000#64 0b000#3 ∧
      from_ (inst 64 true 32 32) 0xBFF0000000000000#64 0x04300000#32 = gives 0xFFFFFFFF00000000#64 0b000#3 ∧
      from_ (inst 8 true 4 4) 0x3FF0000000000000#64 0x04300000#32 = gives 0x10#64 0b000#3 ∧
      from_ s16 0xFFF0000000000000#64 0x04300000#32 = gives 0#64 0b100#3 := by decide +kernel

theorem test_add : -- V-AS1 to V-AS3, V-AS5
    on s16 0x0180#64 0x0080#64 0x10312000#32 = gives 0x0200#64 0b000#3 ∧
      on s16 0x7FFF#64 0x0001#64 0x10312000#32 = gives 0x8000#64 0b000#3 ∧
      on s16 0x8000#64 0xFFFF#64 0x10312000#32 = gives 0x7FFF#64 0b000#3 ∧
      on s16 0x8000#64 0x8000#64 0x10312000#32 = gives 0#64 0b000#3 := by decide

theorem test_add_in_place : -- V-AS12: a source that is also the destination
    exec (.add 1 1 1) (start s16 0x0180#64 0#64 0b000#3 0#64) =
      .next { start s16 0x0300#64 0#64 0b000#3 0#64 with res := 0x0300#64 } := rfl

theorem test_sub : -- V-AS6, V-AS7, V-AS9, V-AS10, V-AS11
    on s16 0x0180#64 0x0080#64 0x11312000#32 = gives 0x0100#64 0b000#3 ∧
      on s16 0x8000#64 0x0001#64 0x11312000#32 = gives 0x7FFF#64 0b000#3 ∧
      on s16 0x0000#64 0x8000#64 0x11312000#32 = gives 0x8000#64 0b000#3 ∧
      on s16 0x0080#64 0x0180#64 0x11312000#32 = gives 0xFF00#64 0b000#3 ∧
      on u16 0x0000#64 0x0001#64 0x11312000#32 = gives 0xFFFF#64 0b000#3 := by decide

theorem test_inc : -- V-AS16, V-AS17, V-AS18, V-AS19, V-AS20
    on s16 0x7FFF#64 0#64 0x12310000#32 = gives 0x80FF#64 0b000#3 ∧
      on s16 0xFF00#64 0#64 0x12310000#32 = gives 0#64 0b000#3 ∧
      on (inst 16 true 1 15) 0x0001#64 0#64 0x12310000#32 = gives 0x8001#64 0b000#3 ∧
      on (inst 16 true 0 16) 0x1234#64 0#64 0x12310000#32 = gives 0x1234#64 0b000#3 ∧
      on u16 0xFF80#64 0#64 0x12310000#32 = gives 0x0080#64 0b000#3 := by decide

theorem test_dec : -- V-AS22, V-AS23, V-AS24, V-AS25
    on s16 0x8000#64 0#64 0x13310000#32 = gives 0x7F00#64 0b000#3 ∧
      on s16 0x80FF#64 0#64 0x13310000#32 = gives 0x7FFF#64 0b000#3 ∧
      on s16 0x0000#64 0#64 0x13310000#32 = gives 0xFF00#64 0b000#3 ∧
      on (inst 16 true 0 16) 0x1234#64 0#64 0x13310000#32 = gives 0x1234#64 0b000#3 := by decide

/-- The predicate after a compare of equal operands, of `0xFE80` and `0x0180`, and of `0x8000` and `0x7FFF`, each read as
signed and as unsigned. -/
def compares (w : Cmd) : List (Option Bool) :=
  [holds s16 0x0200#64 0x0200#64 w, holds s16 0xFE80#64 0x0180#64 w, holds u16 0xFE80#64 0x0180#64 w,
    holds s16 0x8000#64 0x7FFF#64 w, holds u16 0x8000#64 0x7FFF#64 w]

theorem test_ceq : -- V-CM1 to V-CM5
    compares 0x30012000#32 = [some true, some false, some false, some false, some false] := by decide

theorem test_cne : -- V-CM7 to V-CM11
    compares 0x31012000#32 = [some false, some true, some true, some true, some true] := by decide

theorem test_clt : -- V-CM13 to V-CM17
    compares 0x32012000#32 = [some false, some true, some false, some true, some false] := by decide

theorem test_cle : -- V-CM19 to V-CM23
    compares 0x33012000#32 = [some true, some true, some false, some true, some false] := by decide

theorem test_cgt : -- V-CM25 to V-CM29
    compares 0x34012000#32 = [some false, some false, some true, some false, some true] := by decide

theorem test_cge : -- V-CM31 to V-CM35
    compares 0x35012000#32 = [some true, some false, some true, some false, some true] := by decide

theorem test_shl : -- V-SH2, V-SH4, V-SH6, V-SH7, V-SH8
    on s16 0x0180#64 0#64 0x18310000#32 = gives 0x0180#64 0b000#3 ∧
      on s16 0x8001#64 0#64 0x18310001#32 = gives 0x0002#64 0b000#3 ∧
      on s16 0x0001#64 0#64 0x1831000F#32 = gives 0x8000#64 0b000#3 ∧
      on s16 0xFFFF#64 0#64 0x18310010#32 = gives 0#64 0b000#3 ∧
      on s16 0xFFFF#64 0#64 0x1831003F#32 = gives 0#64 0b000#3 := by decide

theorem test_shr_signed : -- V-SH9, V-SH10, V-SH12, V-SH14, V-SH16
    on s16 0xFE80#64 0#64 0x19310001#32 = gives 0xFF40#64 0b000#3 ∧
      on s16 0xFFFF#64 0#64 0x19310001#32 = gives 0xFFFF#64 0b000#3 ∧
      on s16 0x8000#64 0#64 0x1931000F#32 = gives 0xFFFF#64 0b000#3 ∧
      on s16 0x8000#64 0#64 0x1931003F#32 = gives 0xFFFF#64 0b000#3 ∧
      on s16 0x7FFF#64 0#64 0x1931000E#32 = gives 0x0001#64 0b000#3 := by decide

theorem test_shr_unsigned : -- V-SH18 to V-SH21
    on u16 0xFE80#64 0#64 0x19310001#32 = gives 0x7F40#64 0b000#3 ∧
      on u16 0xFFFF#64 0#64 0x1931000F#32 = gives 0x0001#64 0b000#3 ∧
      on u16 0x8000#64 0#64 0x19310010#32 = gives 0#64 0b000#3 ∧
      on u16 0xFFFF#64 0#64 0x1931003F#32 = gives 0#64 0b000#3 := by decide

theorem test_mul : -- V-MD2, V-MD4, V-MD6, V-MD7, V-MD10
    on s16 0xFE80#64 0x0180#64 0x20312000#32 = gives 0xFDC0#64 0b000#3 ∧
      on s16 0xFF7F#64 0x0080#64 0x20312000#32 = gives 0xFFC0#64 0b000#3 ∧
      on s16 0x7FFF#64 0x7FFF#64 0x20312000#32 = gives 0xFF00#64 0b000#3 ∧
      on s16 0x8000#64 0x8000#64 0x20312000#32 = gives 0#64 0b000#3 ∧
      on u16 0xFFFF#64 0xFFFF#64 0x20312000#32 = gives 0xFE00#64 0b000#3 := by decide

theorem test_mul_without_fraction : -- V-MD12
    on (inst 16 true 16 0) 0x0007#64 0x0009#64 0x20312000#32 = gives 0x003F#64 0b000#3 := by decide

theorem test_div : -- V-MD16, V-MD17, V-MD18, V-MD23, V-MD27, V-MD29
    on s16 0xFF00#64 0x0300#64 0x21312000#32 = gives 0xFFAB#64 0b000#3 ∧
      on s16 0x0100#64 0xFD00#64 0x21312000#32 = gives 0xFFAB#64 0b000#3 ∧
      on s16 0xFF00#64 0xFD00#64 0x21312000#32 = gives 0x0055#64 0b000#3 ∧
      on s16 0x8000#64 0xFF00#64 0x21312000#32 = gives 0x8000#64 0b000#3 ∧
      on u16 0xFFFF#64 0x0100#64 0x21312000#32 = gives 0xFFFF#64 0b000#3 ∧
      on s16 0xFE80#64 0x0080#64 0x21312000#32 = gives 0xFD00#64 0b000#3 := by decide

theorem test_div_by_zero : -- V-MD20, V-MD21, V-MD22
    on s16 0xFE80#64 0#64 0x21312000#32 = gives 0xFFFF#64 0b010#3 ∧
      on s16 0#64 0#64 0x21312000#32 = gives 0xFFFF#64 0b010#3 ∧
      on u16 0x0180#64 0#64 0x21312000#32 = gives 0xFFFF#64 0b010#3 := by decide

theorem test_mov : on s16 0x0180#64 0#64 0x02310000#32 = gives 0x0180#64 0b000#3 := by decide -- V-IF2

theorem test_ldraw : -- V-IF3, V-IF4, and R52 for the widest storage
    from_ s16 0x7F00#64 0x05300000#32 = gives 0x7F00#64 0b000#3 ∧
      from_ s16 0xFFFFFFFFFFFF8000#64 0x05300000#32 = gives 0x8000#64 0b000#3 ∧
      from_ (inst 64 false 32 32) 0xFFFFFFFFFFFF8000#64 0x05300000#32 =
        gives 0xFFFFFFFFFFFF8000#64 0b000#3 := by decide

theorem test_rd : -- V-IF5
    on s16 0x0200#64 0#64 0x06010000#32 = some (0#64, 0x0200#64, 0b000#3) := by decide

theorem test_nop : exec .nop (start s16 1#64 2#64 0b101#3 3#64) = .next (start s16 1#64 2#64 0b101#3 3#64) := -- V-IF1
  rfl

theorem test_clrst : -- V-IF6
    exec .clrst (start s16 1#64 2#64 0b111#3 3#64) = .next (start s16 1#64 2#64 0b000#3 3#64) := rfl

/-- Section 3's start state: an illegal word changes ILL and nothing else. -/
theorem test_illegal_word :
    let s : State := { start s16 0#64 0#64 0b000#3 0x1234#64 with v := #v[1#64, 2#64, 3#64, 4#64, 5#64, 6#64, 7#64, 8#64] }
    runWord 0x10312001#32 s = .next { s with status := 0b001#3 } := rfl

/-! ### The edge (section 4 of 95_test_vectors.md) -/

/-- What the ports show after one edge with this sample: `cmd_ready`, `done`, `res`, and the state. -/
def edge (x : PortIn) (s : State) : Option (Bool × Bool × Word) :=
  match step { s with inputs := [x] } with
  | .next t => some ((outputs t).cmdReady, (outputs t).done, (outputs t).res)
  | .fault _ => none
  | .refused _ => none

/-- T2's latencies: `LAT(DIV) = 3`, every other one 1. -/
def slowDiv : Config := { Config.default with waits := fast.set 15 2 }

/-- T2 at edge 10, and its state after edges 10 and 11, with `left` edges to go. -/
def divWaiting (left : Nat) : State :=
  { start slowDiv 0x0300#64 0x0200#64 0b000#3 0#64 with inFlight := some ⟨0x21312000#32, left⟩, ready := false }

theorem test_trace_T1 : -- edges 0, 2, 5
    edge ⟨true, false, 0#32, 0#64⟩ State.reset = some (false, false, 0#64) ∧
      edge ⟨false, true, 0x04100000#32, 0x3FF8000000000000#64⟩ State.reset = some (true, true, 0x0180#64) ∧
      edge PortIn.idle { State.reset with res := 0x0200#64, done := true } = some (true, false, 0x0200#64) := by
  decide +kernel

theorem test_trace_T1_after_reset : -- edge 1
    edge PortIn.idle { State.reset with ready := false } = some (true, false, 0#64) := by decide

theorem test_trace_T2 : -- edges 10 to 13
    edge ⟨false, true, 0x21312000#32, 0#64⟩ (start slowDiv 0x0300#64 0x0200#64 0b000#3 0#64) = some (false, false, 0#64) ∧
      edge ⟨false, true, 0x06010000#32, 0#64⟩ (divWaiting 2) = some (false, false, 0#64) ∧
      edge ⟨false, true, 0x06010000#32, 0#64⟩ (divWaiting 1) = some (true, true, 0x0180#64) ∧
      edge ⟨false, true, 0x06010000#32, 0#64⟩ (start slowDiv 0x0300#64 0x0200#64 0b000#3 0#64) =
        some (true, true, 0x0300#64) := by decide

theorem test_trace_T3 : -- edge 21: the DIV is abandoned, its zero divisor sets nothing
    step { divWaiting 2 with v := Vector.replicate 8 0#64, inputs := [⟨true, false, 0#32, 0#64⟩] } =
      .next { State.resetOf slowDiv with ready := false } := rfl

/-- The host's question: after reset, the presented word is the one the next step runs. -/
theorem test_fetch_word :
    (match step (State.reset.withFetchWord 32 0x12310000) with
      | .next t => t.v[3] == 0x0100#64 && t.res == 0x0100#64 && t.done
      | .fault _ => false
      | .refused _ => false) = true := by decide

/-- R27's value of CONFIG for the default instance, and the greatest fields. -/
theorem test_config_word :
    configWord s16 = 0x01080810#32 ∧ configWord (inst 64 false 0 64) = 0x00400040#32 := by decide

/-! ### The assembler (R80, R81) -/

/-- E5's patterns: 0.3 in binary64, 0.1 in binary32; E1's 1.5; and 2^-9 negated. -/
theorem test_literals :
    literalDouble (3 / 10) = 0x3FD3333333333333#64 ∧ literalSingle (1 / 10) = 0x3DCCCCCD#32 ∧
      literalDouble (3 / 2) = 0x3FF8000000000000#64 ∧ literalSingle (-(1 / 512)) = 0xBB000000#32 := by decide +kernel

/-- The lines of P1 and P4 in the syntax of R80. -/
theorem test_assembly :
    assembly s16 0x3FF8000000000000#64 (.cvtd 1) = "CVTD v1, #0x3FF8000000000000" ∧
      assembly s16 0#64 (.add 3 1 2) = "ADD v3, v1, v2" ∧ assembly s16 0x7F00#64 (.ldraw 0) = "LDRAW v0, #0x7F00" ∧
      assembly s16 0#64 (.shr 3 0 63) = "SHR v3, v0, 63" := by decide +kernel

/-- R81's table. -/
theorem test_pseudo :
    pseudoAdda 1 2 = .add 1 1 2 ∧ pseudoDiva 1 2 = .div 1 1 2 ∧ pseudoDecr 1 = .dec 1 1 ∧
      encode (pseudoIncr 1) = 0x12110000#32 := by decide

/-! ### Witnesses: for each statement with hypotheses, a state and operands that meet them, at the ends of the ranges -/

/-- Every register, P, RES and STATUS nonzero. -/
def used : State :=
  { start slowDiv 0x0300#64 0x0200#64 0b101#3 0x7FC00000#64 with p := true, res := 0xFFFF#64 }

/-- An outcome that passes a test of its next state is a next state. -/
theorem next_that (o : Host.Outcome State Fault Refusal) (p : State → Bool)
    (h : (match o with | .next t => p t | .fault _ => false | .refused _ => false) = true) :
    ∃ t, o = .next t ∧ p t = true := by
  cases o with
  | next t => exact ⟨t, rfl, h⟩
  | fault r => cases r
  | refused r => cases h

/-- A command has a next state. -/
theorem some_next (i : Instr) (s : State) : ∃ t, exec i s = .next t := (exec_total i s).imp fun _ h => h.1

/-- A DIV in flight with one edge gone, `rst` sampled at the next edge and at the edge after it. -/
def resetTwice : State :=
  { used with inFlight := some ⟨0x21312000#32, 2⟩, ready := false, inputs := List.replicate 2 ⟨true, true, 0#32, 0#64⟩ }

theorem test_witness_ResetStateIsAllZeroIdleReady :
    State.resetOf u16 = State.reset ∨ ∃ c, State.resetOf u16 = State.resetOf c := .inr ⟨u16, rfl⟩

theorem test_witness_ResetEdgeAbandonsEverything :
    (portIn resetTwice).rst = true ∧
      ∃ t, step resetTwice = .next t ∧ (portIn t).rst = true :=
  ⟨rfl, next_that _ (fun t => (portIn t).rst) (by decide)⟩

/-- A NOP is presented at the first edge after the reset edge. -/
theorem test_witness_FirstEdgeAfterResetMakesCoreReady :
    let s : State := { used with inputs := [⟨true, false, 0#32, 0#64⟩, ⟨false, true, 0#32, 0#64⟩] }
    (portIn s).rst = true ∧ ∃ t, step s = .next t ∧ (!(portIn t).rst) = true :=
  ⟨rfl, next_that _ (fun t => !(portIn t).rst) (by decide)⟩

/-- A divisor that is not 0, and finite inputs of both conversions. -/
theorem test_witness_EveryCommandFinishesAndWrapsSilently :
    val used.cfg used.v[(2 : Reg)] ≠ 0 ∧
      fpval32 ((start s16 0#64 0#64 0b000#3 0x80000000#64).data.extractLsb' 0 32) = .real 0 ∧
      fpval64 (start s16 0#64 0#64 0b000#3 0x8000000000000000#64).data = .real 0 := by decide +kernel

theorem not_real_nan (x : ℚ) : FpValue.nan ≠ .real x := by simp

theorem not_real_inf (b : Bool) (x : ℚ) : FpValue.inf b ≠ .real x := by simp

theorem test_witness_StatusEventsHaveTheirEffects :
    legalWord 0x08000000#32 = false ∧ val used.cfg used.v[(0 : Reg)] = 0 ∧
      (∀ x : ℚ, fpval32 (used.data.extractLsb' 0 32) ≠ .real x) ∧
      ∀ x : ℚ, fpval64 (start s16 0#64 0#64 0b000#3 0xFFF0000000000000#64).data ≠ .real x :=
  ⟨by decide, by decide, fun x => not_real_nan x, fun x => not_real_inf true x⟩

theorem test_witness_NoOtherCommandSetsAStatusBit :
    (∃ t, exec .clrst used = .next t) ∧
      (∃ t, exec (.shr 7 1 63) used = .next t) ∧ Instr.shr 7 1 63 ≠ .clrst :=
  ⟨some_next _ _, some_next _ _, by decide⟩

/-- Each of the three bits set by one word, from STATUS clear. -/
theorem test_witness_AtMostOneEventPerCommand :
    let s := start s16 0#64 0#64 0b000#3 0x7FC00000#64
    (∀ e, flagSet s.status e = false) ∧ (∃ t, runWord 0x08000000#32 s = .next t ∧ flagSet t.status .ill = true) ∧
      (∃ t, runWord 0x21312000#32 s = .next t ∧ flagSet t.status .dz = true) ∧
      ∃ t, runWord 0x03300000#32 s = .next t ∧ flagSet t.status .nv = true :=
  ⟨fun e => by cases e <;> decide, next_that _ (fun t => flagSet t.status .ill) (by decide),
    next_that _ (fun t => flagSet t.status .dz) (by decide),
    next_that _ (fun t => flagSet t.status .nv) (by decide +kernel)⟩

theorem test_witness_StatusBitsAreStickyUntilClrstOrReset :
    (∃ t, step used = .next t) ∧ flagSet used.status .ill = true ∧ flagSet used.status .nv = true ∧
      (portIn resetTwice).rst = true ∧
      completing { used with inputs := [⟨false, true, 0x07000000#32, 0#64⟩] } = some 0x07000000#32 ∧
      decode 0x07000000#32 = .ok .clrst := ⟨step_total _, by decide⟩

theorem test_witness_PredicateIsWrittenOnlyByCompares :
    (∃ t, runWord 0x30012000#32 used = .next t) ∧ ∃ t, exec (.ceq 1 2) used = .next t :=
  ⟨(runWord_total _ _).imp fun _ h => h.1, some_next _ _⟩

theorem test_witness_ResFollowsTheWrittenRegister :
    (∃ t, exec (.mov 7 1) used = .next t) ∧ destOf (.mov 7 1) = some 7 ∧ (∃ t, exec (.rd 7) used = .next t) ∧
      (∃ t, exec .clrst used = .next t) ∧ destOf .clrst = none ∧ legalWord 0x00000001#32 = false :=
  ⟨some_next _ _, rfl, some_next _ _, some_next _ _, rfl, by decide⟩

/-- Registers that agree on the two sources only. -/
theorem test_witness_CommandsAccessOnlyTheirRegisters :
    (∃ t, exec (.add 0 1 2) used = .next t) ∧ destOf (.add 0 1 2) ≠ some 7 ∧
      (∀ k ∈ sourcesOf (.add 0 1 2),
        (#v[9#64, 0x0300#64, 0x0200#64, 9#64, 9#64, 9#64, 9#64, 9#64] : Vector Word 8)[k] = used.v[k]) ∧
      legalWord 0x36000000#32 = false := ⟨some_next _ _, by decide, by decide, by decide⟩

theorem test_witness_LegalWordsAreThoseOfTheOpcodeMap :
    legalWord 0x3501200F#32 = false ∧ legalWord 0x35077000#32 = true := by decide

/-- One word of each kind, the row being that of the word's opcode in the second and the third. -/
theorem test_witness_ReservedEncodingsAreRefused :
    (0xFF000000#32 : Cmd).extractLsb' 24 8 = 0xFF#8 ∧ 0xFF ∉ opcodeMap.map Prod.fst ∧
      0x18 ∈ opcodeMap.map Prod.fst ∧ (0x18310040#32 : Cmd).extractLsb' 6 6 ≠ 0#6 ∧
      (0x30, 0xFFF88FFF#32) ∈ opcodeMap ∧ (0x30312000#32 : Cmd) &&& 0xFFF88FFF#32 ≠ 0x30000000#32 := by decide

theorem test_witness_DecodeOfEncodeIsTheCommand :
    (Instr.shr 7 0 63).wf = true ∧ (Instr.cge 7 7).wf = true := by decide

theorem test_witness_EncodeOfDecodeIsTheWord :
    decode 0x1977003F#32 = .ok (.shr 7 7 63) ∧ decode 0x00000000#32 = .ok .nop := by decide

/-- A finite input on either side of 0, and one that is not finite. -/
theorem test_witness_CvtsConvertsTheBinary32Operand :
    fpval32 ((start s16 0#64 0#64 0b000#3 0x3FC00000#64).data.extractLsb' 0 32) = .real (3 / 2) ∧
      fpval32 ((start s16 0#64 0#64 0b000#3 0xBFC00000#64).data.extractLsb' 0 32) = .real (-(3 / 2)) ∧
      ∀ x : ℚ, fpval32 (used.data.extractLsb' 0 32) ≠ .real x :=
  ⟨by decide +kernel, by decide +kernel, fun x => not_real_nan x⟩

theorem test_witness_CvtdConvertsTheBinary64Operand :
    fpval64 (start s16 0#64 0#64 0b000#3 0x3FE0000000000000#64).data = .real (1 / 2) ∧
      fpval64 (start s16 0#64 0#64 0b000#3 0xBFD0000000000000#64).data = .real (-(1 / 4)) ∧
      ∀ x : ℚ, fpval64 (start s16 0#64 0#64 0b000#3 0x7FF8000000000000#64).data ≠ .real x :=
  ⟨by decide +kernel, by decide +kernel, fun x => not_real_nan x⟩

theorem used_fits : used.PatternsFit := by
  unfold State.PatternsFit FitsWidth; decide +kernel

theorem test_witness_ComparesWriteThePredicateAndNothingElse :
    used.PatternsFit ∧ ((0x35077000#32 : Cmd).extractLsb' 24 8).toNat = 0x35 ∧ legalWord 0x35077000#32 = true :=
  ⟨used_fits, by decide⟩

/-- The greatest count, which is also above the width. -/
theorem test_witness_ShlMultipliesModuloTheWidth : 63 < 64 ∧ used.cfg.bits ≤ 63 := by decide

theorem test_witness_ShrFloorsTheValue : 0 < 64 ∧ 63 < 64 := by decide

/-- Both storage types, at their least long count and at 63. -/
theorem test_witness_LongShiftsRightLeaveTheSign :
    (start s16 0x8000#64 0x7FFF#64 0b000#3 0#64).PatternsFit ∧ s16.signed = true ∧ s16.bits - 1 ≤ 15 ∧
      (start u16 0xFFFF#64 0#64 0b000#3 0#64).PatternsFit ∧ u16.signed = false ∧ u16.bits ≤ 16 := by
  unfold State.PatternsFit FitsWidth; decide +kernel

theorem test_witness_DivRescalesAndTruncatesTowardZero :
    val used.cfg used.v[(7 : Reg)] = 0 ∧ val used.cfg used.v[(1 : Reg)] ≠ 0 := by decide

theorem test_witness_NopChangesNothing :
    ((0x00000001#32 : Cmd).extractLsb' 24 8).toNat = 0 ∧ (0x00000001#32 : Cmd) ≠ 0#32 := by decide

theorem test_witness_RdDrivesTheRegisterOntoRes :
    destOf (.rd 1) = none ∧ ∃ t, exec (.rd 1) used = .next t ∧ (t.res != used.res) = true :=
  ⟨rfl, next_that _ (fun t => t.res != used.res) (by decide)⟩

theorem test_witness_ClrstClearsTheStatus :
    ((0x07000001#32 : Cmd).extractLsb' 24 8).toNat = 7 ∧ legalWord 0x07000001#32 = false ∧
      flagSet used.status .nv = true ∧ ∃ t, exec .clrst used = .next t ∧ (!flagSet t.status .nv) = true :=
  ⟨by decide, by decide, by decide, next_that _ (fun t => !flagSet t.status .nv) (by decide)⟩

/-- The least and the greatest signed pattern, and the extension to the same length. -/
theorem test_witness_PatternsReadAndWrapAsIntegers :
    FitsWidth s16 0x8000#64 ∧ FitsWidth s16 0x7FFF#64 ∧ FitsWidth (inst 64 true 32 32) 0xFFFFFFFFFFFFFFFF#64 ∧
      16 ≤ 16 := by unfold FitsWidth; decide +kernel

theorem test_witness_QuotientsTruncateAndHalvesRoundAway :
    (-3 : ℤ) ≠ 0 ∧ |(rhaz (-(5 / 2)) : ℚ) - -(5 / 2)| = 1 / 2 := by decide +kernel

/-- An exponent field of each kind, in both layouts. -/
theorem test_witness_FloatingPointPatternsDecode :
    fpval32 0x7FC00000#32 = .nan ∧ fpval32 0xFF800000#32 = .inf true ∧ fpval32 0x00000001#32 = .real (2 ^ (-149 : ℤ)) ∧
      fpval32 0x00800000#32 = .real (2 ^ (-126 : ℤ)) ∧ fpval64 0xFFF8000000000000#64 = .nan ∧
      fpval64 0x7FF0000000000000#64 = .inf false ∧ fpval64 0x8000000000000001#64 = .real (-(2 ^ (-1074 : ℤ))) ∧
      fpval64 0x7FEFFFFFFFFFFFFF#64 = .real ((2 ^ 53 - 1) * 2 ^ (971 : ℤ)) := by decide +kernel

/-- 1.5 is in range, as both a binary32 and a binary64 pattern. -/
theorem test_witness_ConversionRoundTripsWithinHalfAUnit :
    val s16 (wrap s16 (rhaz (3 / 2 * 2 ^ s16.fbits))) = rhaz (3 / 2 * 2 ^ s16.fbits) ∧
      fpval32 ((start s16 0#64 0#64 0b000#3 0x3FC00000#64).data.extractLsb' 0 32) = .real (3 / 2) ∧
      fpval64 (start s16 0#64 0#64 0b000#3 0x3FF8000000000000#64).data = .real (3 / 2) := by decide +kernel

/-- E4's patterns, for both signs and both storage types. -/
theorem test_witness_HalfStepsRoundAwayFromZero :
    fpval32 ((start s16 0#64 0#64 0b000#3 0x3B000000#64).data.extractLsb' 0 32) = .real (1 / 2 / 2 ^ s16.fbits) ∧
      fpval64 (start u16 0#64 0#64 0b000#3 0xBF60000000000000#64).data = .real (-(1 / 2 / 2 ^ u16.fbits)) ∧
      s16.signed = true ∧ u16.signed = false := by decide +kernel

theorem test_witness_BinaryFormsAreCompoundFormsOfACopy : (3 : Reg) ≠ 2 := by decide

theorem test_witness_AdditionDoesNotDependOnSignedness :
    (∃ t, exec (.sub 3 1 2) used = .next t) ∧ ∃ t, exec (.dec 3 1) used = .next t :=
  ⟨some_next _ _, some_next _ _⟩

theorem test_witness_AdditionLawsHoldForEveryPattern :
    used.PatternsFit ∧ used.v[(0 : Reg)] = 0#64 ∧ (3 : Reg) ≠ 1 ∧ (3 : Reg) ≠ 2 := by
  unfold State.PatternsFit FitsWidth; decide +kernel

/-- The greatest `F` that R182 allows, for both storage types, with the pattern of 1.0 in `V2`. -/
theorem test_witness_MulAndDivByOneAreIdentities :
    let c := inst 16 true 2 14
    let u := inst 16 false 1 15
    (start c 0x8000#64 0x4000#64 0b000#3 0#64).PatternsFit ∧ c.signed = true ∧ c.fbits < c.bits - 1 ∧
      wrap c (2 ^ c.fbits) = 0x4000#64 ∧
      (start u 0xFFFF#64 0x8000#64 0b000#3 0#64).PatternsFit ∧ u.signed = false ∧ u.fbits < u.bits ∧
      wrap u (2 ^ u.fbits) = 0x8000#64 := by
  unfold State.PatternsFit FitsWidth; decide +kernel

/-- Operands that differ in unread bits only. -/
theorem test_witness_UnreadDataBitsAreIgnored :
    (∀ k < 32, (0xDEADBEEF7FC00000#64 : Data).getLsbD k = used.data.getLsbD k) ∧
      (∀ k < used.cfg.bits, (0xFFFFFFFFFFFF0000#64 : Data).getLsbD k = used.data.getLsbD k) ∧
      (∃ t, exec (.cvts 1) used = .next t) ∧ (∃ t, exec (.ldraw 1) used = .next t) ∧
      ∃ t, exec .nop used = .next t :=
  ⟨by decide +kernel, by decide +kernel, some_next _ _, some_next _ _, some_next _ _⟩

theorem test_witness_OnlyWidthSignednessAndFractionMatter :
    let c : Config := { used.cfg with ibits := 0, waits := Vector.replicate 22 7, legal := by decide }
    c.width = used.cfg.width ∧ c.signed = used.cfg.signed ∧ c.fbits = used.cfg.fbits ∧ c ≠ used.cfg ∧
      ∃ t, exec (.mul 1 1 2) used = .next t := ⟨rfl, rfl, rfl, by decide, some_next _ _⟩

/-- A command of latency 1 on the port, a DIV at its completion edge, and a table word. -/
theorem test_witness_StepRunsTheDecodedCommand :
    let s : State := { used with inputs := [⟨false, true, 0x10312000#32, 0#64⟩] }
    (accepts s = true ∧ decode (portIn s).cmd = .ok (.add 3 1 2) ∧ latencyOf s.cfg (.add 3 1 2) = 1) ∧
      ((divWaiting 1).inFlight = some ⟨0x21312000#32, 1⟩ ∧ (portIn (divWaiting 1)).rst = false ∧
        decode 0x21312000#32 = .ok (.div 3 1 2)) ∧
      decode (BitVec.ofNat 32 0x21312000) = .ok (.div 3 1 2) ∧ latencyOf used.cfg (.div 3 1 2) = 3 := by decide

/-- CORE waits for a DIV while the host holds a command; and an idle CORE, which meets the invariant. -/
theorem test_witness_OnlyAReadyCoreAccepts :
    used.Inv ∧
      ∃ s x rest, s.inputs = x :: rest ∧ x.rst = false ∧ s.ready = false ∧
        s = { divWaiting 2 with inputs := [⟨false, true, 0x06010000#32, 0#64⟩] } := by
  refine ⟨⟨used_fits, fun f h => ?_⟩, _, _, _, rfl, rfl, rfl, rfl⟩
  cases h

/-- A DIV of latency 3, accepted, with two more edges that do not reset. -/
theorem test_witness_CommandsCompleteAfterTheirLatency :
    let s : State := { used with inputs := [⟨false, true, 0x21312000#32, 0#64⟩] }
    accepts s = true ∧ decode (portIn s).cmd = .ok (.div 3 1 2) ∧ latencyOf s.cfg (.div 3 1 2) = 3 ∧ NoReset 3 s :=
  ⟨by decide, by decide, by decide, by intro x hx; simp at hx; rw [hx]⟩

/-- A waiting edge, which completes nothing, and a completion edge. -/
theorem test_witness_OutputsChangeOnlyAtCompletionOrReset :
    ((∃ t, step (divWaiting 2) = .next t) ∧ (portIn (divWaiting 2)).rst = false ∧ completing (divWaiting 2) = none) ∧
      (∃ t, step (divWaiting 1) = .next t) ∧ completing (divWaiting 1) = some 0x21312000#32 :=
  ⟨⟨step_total _, by decide, by decide⟩, step_total _, by decide⟩

theorem test_witness_IdleCoreHoldsItsState :
    used.inFlight = none ∧ ∀ x ∈ used.inputs.take 5, x.rst = false ∧ x.cmdValid = false := by decide

/-- The invariant with a command in flight, one edge before the end. -/
theorem test_witness_EveryStepKeepsTheInvariant :
    (divWaiting 1).Inv ∧ (divWaiting 2).Inv ∧ ∃ t, step (divWaiting 2) = .next t := by
  have hp : (divWaiting 0).PatternsFit := by unfold State.PatternsFit FitsWidth; decide +kernel
  have hl : latency slowDiv 0x21312000#32 = 3 := by decide
  have h (n : Nat) (h1 : 1 ≤ n) (h2 : n < 3) : (divWaiting n).Inv := by
    refine ⟨hp, fun f hf => ?_⟩
    cases hf
    exact ⟨rfl, rfl, h1, hl ▸ h2⟩
  exact ⟨h 1 (by decide) (by decide), h 2 (by decide) (by decide), step_total _⟩

/-- A reset edge, an accepting edge, and an edge that does neither. -/
theorem test_witness_EachEdgeRefinesOneCommandStep :
    (∀ s, ∃ t, step s = .next t) ∧ (portIn resetTwice).rst = true ∧
      accepts { used with inputs := [⟨false, true, 0x21312000#32, 0#64⟩] } = true ∧
      (portIn (divWaiting 1)).rst = false ∧ accepts (divWaiting 1) = false := ⟨step_total, by decide⟩

theorem test_witness_RunsRefineTheSequenceOfAcceptedCommands :
    NoReset 2 { used with inputs := [⟨false, true, 0x21312000#32, 0#64⟩, PortIn.idle] } := by
  intro x hx; simp at hx; rcases hx with rfl | rfl <;> rfl

end Sys2Proof.Tests
end

section
/-! PROOFS. The parameters of a configuration (spec 00_scope.md R6, R7, R9). -/

namespace Sys2Proof

theorem Width.bits_legal (width : Width) : width.bits = 8 ∨ width.bits = 16 ∨ width.bits = 32 ∨ width.bits = 64 := by
  cases width <;> decide

@[simp] theorem Width.ofBits_bits (width : Width) : Width.ofBits width.bits = some width := by
  cases width <;> decide

theorem Width.bits_of_ofBits {w : Nat} {width : Width} (h : Width.ofBits w = some width) : width.bits = w := by
  unfold Width.ofBits at h
  split_ifs at h with h8 h16 h32 h64
  · cases h; exact h8.symm
  · cases h; exact h16.symm
  · cases h; exact h32.symm
  · cases h; exact h64.symm

/-- A legal width is the number of bits of some `Width` (R6). -/
theorem Width.exists_bits_eq {w : Nat} (h : w = 8 ∨ w = 16 ∨ w = 32 ∨ w = 64) : ∃ width : Width, width.bits = w := by
  rcases h with rfl | rfl | rfl | rfl
  · exact ⟨.w8, rfl⟩
  · exact ⟨.w16, rfl⟩
  · exact ⟨.w32, rfl⟩
  · exact ⟨.w64, rfl⟩

/-- What `build` answers is the configuration with exactly the given parameters, wherever it exists: legality is carried
by `c` itself (R6, R7). -/
theorem Config.build_eq_some_iff {w : Nat} {signed : Bool} {i : Nat} {f : Option Nat} {waits : Vector Nat 22}
    {c : Config} :
    Config.build w signed i f waits = some c ↔
      c.bits = w ∧ c.signed = signed ∧ c.ibits = i ∧ c.fbits = f.getD (w - i) ∧ c.waits = waits := by
  unfold Config.build
  constructor
  · intro h
    split at h
    case h_1 => cases h
    case h_2 width hw =>
      obtain ⟨hl, hc⟩ := Option.dite_none_right_eq_some.1 h
      cases hc
      exact ⟨Width.bits_of_ofBits hw, rfl, rfl, rfl, rfl⟩
  · obtain ⟨width, sg, ib, fb, ws, hl⟩ := c
    rintro ⟨rfl, rfl, rfl, hf, rfl⟩
    obtain rfl : fb = f.getD (width.bits - ib) := hf
    simp only [Config.bits, Width.ofBits_bits]
    exact dif_pos hl

/-- `build` succeeds exactly on a legal width and a split that fits it (R6, R7). -/
theorem Config.build_isSome_iff (w : Nat) (signed : Bool) (i : Nat) (f : Option Nat) (waits : Vector Nat 22) :
    (Config.build w signed i f waits).isSome = true ↔
      (w = 8 ∨ w = 16 ∨ w = 32 ∨ w = 64) ∧ i + f.getD (w - i) ≤ w := by
  rw [Option.isSome_iff_exists]
  constructor
  · rintro ⟨c, h⟩
    obtain ⟨rfl, -, rfl, hf, -⟩ := Config.build_eq_some_iff.1 h
    exact ⟨c.width.bits_legal, hf ▸ c.legal⟩
  · rintro ⟨hw, hl⟩
    obtain ⟨width, rfl⟩ := Width.exists_bits_eq hw
    exact ⟨⟨width, signed, i, f.getD (width.bits - i), waits, hl⟩,
      Config.build_eq_some_iff.2 ⟨rfl, rfl, rfl, rfl, rfl⟩⟩

/-- Settles O2: each parameter is a field of `Config.default`. -/
theorem defaultInstanceHasTheSourcesParameters : Obligations.DefaultInstanceHasTheSourcesParameters :=
  ⟨rfl, rfl, rfl, rfl, rfl⟩

/-- Settles O3, from what `build` answers and when it answers. -/
theorem illegalConfigurationCannotBeBuilt : Obligations.IllegalConfigurationCannotBeBuilt :=
  ⟨fun w signed i f waits => ⟨Config.build_isSome_iff w signed i f waits, fun _ => Config.build_eq_some_iff.1⟩,
    fun c => ⟨c.width.bits_legal, c.legal⟩⟩

end Sys2Proof
end

section
/-! PROOFS. The number primitives: patterns as integers, truncation and rounding (spec 00_scope.md R13, R14). -/

namespace Sys2Proof.Machine

/-- A pattern that fits reads, unsigned, in `[0, 2^W)` (R13). -/
theorem uint_bounds {c : Config} {x : Word} (h : FitsWidth c x) : 0 ≤ uint x ∧ uint x < 2 ^ c.bits := by
  have hx : (x.toNat : ℤ) < 2 ^ c.bits := mod_cast h
  exact ⟨Int.natCast_nonneg _, hx⟩

/-- The definition's `2^W` is a natural number; here it is an integer (R13). -/
theorem sint_eq_ite_sign_bit (c : Config) (x : Word) :
    sint c x = if x.getLsbD (c.bits - 1) then uint x - 2 ^ c.bits else uint x := by
  unfold sint; push_cast; rfl

/-- A pattern that fits reads, signed, in `[-2^(W-1), 2^(W-1))` (R13). -/
theorem sint_bounds {c : Config} {x : Word} (h : FitsWidth c x) :
    -(2 ^ (c.bits - 1)) ≤ sint c x ∧ sint c x < 2 ^ (c.bits - 1) := by
  have hx : (x.toNat : ℤ) < 2 ^ c.bits := (uint_bounds h).2
  have half : (2 : ℤ) ^ c.bits = 2 * 2 ^ (c.bits - 1) := mod_cast two_pow_bits_half c
  have pos : (0 : ℤ) < 2 ^ (c.bits - 1) := by positivity
  rw [sint_eq c h]
  split
  case isTrue hs =>
    have : (2 : ℤ) ^ (c.bits - 1) ≤ x.toNat := mod_cast hs
    omega
  case isFalse hs =>
    have : (x.toNat : ℤ) < 2 ^ (c.bits - 1) := mod_cast not_le.1 hs
    omega

/-- Settles O38, from the laws of the readings, of `wrap` and of the two extensions. -/
theorem patternsReadAndWrapAsIntegers : Obligations.PatternsReadAndWrapAsIntegers :=
  ⟨fun c x h => ⟨uint_bounds h, sint_eq_ite_sign_bit c x, sint_bounds h, rfl, wrap_val c h⟩,
    fun c n => ⟨wrap_fits c n, wrap_toNat c n⟩,
    fun _ _ v h => ⟨zext_toNat h v, sext_toInt h v⟩⟩

/-- `tdiv` by the floor of the rational quotient, as R14 writes it. -/
theorem tdiv_eq_floor (n d : ℤ) :
    tdiv n d = n.sign * d.sign * ⌊((|n| : ℤ) : ℚ) / ((|d| : ℤ) : ℚ)⌋ := by
  have floor_eq : ⌊((|n| : ℤ) : ℚ) / ((|d| : ℤ) : ℚ)⌋ = ((n.natAbs / d.natAbs : ℕ) : ℤ) := by
    rw [Int.abs_eq_natAbs d, Int.cast_natCast, Rat.floor_intCast_div_natCast, Int.abs_eq_natAbs n, Int.natCast_div]
  rw [floor_eq, tdiv]

/-- Rounding is odd: a negative value rounds as its opposite does (R14). -/
theorem rhaz_of_neg {r : ℚ} (h : r < 0) : rhaz r = -rhaz (-r) := by
  unfold rhaz
  rw [if_neg (not_le.2 h), if_pos (neg_nonneg.2 h.le)]

/-- A nonnegative value half way between two integers rounds up: the lower one is not the floor of `r + 1/2` (R14). -/
theorem rhaz_tie_of_nonneg {r : ℚ} (h : 0 ≤ r) (tie : |(rhaz r : ℚ) - r| = 1 / 2) : |r| < |(rhaz r : ℚ)| := by
  have lt := Int.lt_floor_add_one (r + 1 / 2)
  rw [rhaz, if_pos h] at tie ⊢
  rcases (abs_eq (by norm_num)).1 tie with up | down
  · rw [abs_of_nonneg h]
    exact lt_of_lt_of_le (by linarith) (le_abs_self _)
  · linarith

/-- An exact half rounds away from zero (R14). -/
theorem rhaz_tie {r : ℚ} (tie : |(rhaz r : ℚ) - r| = 1 / 2) : |r| < |(rhaz r : ℚ)| := by
  rcases le_or_gt 0 r with h | h
  · exact rhaz_tie_of_nonneg h tie
  · have opposite : (rhaz r : ℚ) = -rhaz (-r) := mod_cast rhaz_of_neg h
    have tie' : |(rhaz (-r) : ℚ) - -r| = 1 / 2 := by rw [← tie, opposite, ← abs_neg]; congr 1; ring
    simpa [opposite] using rhaz_tie_of_nonneg (neg_nonneg.2 h.le) tie'

/-- Settles O39, from the floor form of `tdiv` and the two bounds on what `rhaz` moves. -/
theorem quotientsTruncateAndHalvesRoundAway : Obligations.QuotientsTruncateAndHalvesRoundAway :=
  ⟨fun n d _ => ⟨tdiv_eq_floor n d, tdiv_eq_tdiv n d⟩, fun _ => rfl, fun r => ⟨rhaz_near r, rhaz_tie⟩⟩

end Sys2Proof.Machine
end

section
/-! PROOFS. The decoding of binary32 and binary64 patterns (spec 00_scope.md R15). -/

namespace Sys2Proof.Machine

/-- The sign factor `(-1)^s` that bit `k` of a pattern gives (R15). -/
theorem sign_eq_neg_one_pow {n : Nat} (b : BitVec n) (k : Nat) :
    (if b.getLsbD k then -1 else 1 : ℚ) = (-1) ^ (b.extractLsb' k 1).toNat := by
  have bit : (b.extractLsb' k 1).toNat = (b.getLsbD k).toNat := by
    rw [BitVec.extractLsb'_toNat, Nat.pow_one, BitVec.getLsbD, Nat.toNat_testBit, Nat.shiftRight_eq_div_pow]
  rw [bit]
  cases b.getLsbD k
  · rw [if_neg Bool.false_ne_true, Bool.toNat_false, pow_zero]
  · rw [if_pos rfl, Bool.toNat_true, pow_one]

section
variable {eMax mBits e m : Nat} {bias : ℤ} {negative : Bool}

theorem fpDecode_nan (he : e = eMax) (hm : m ≠ 0) : fpDecode eMax mBits bias negative e m = .nan := by
  simp only [fpDecode, if_pos he, if_neg hm]

theorem fpDecode_inf (he : e = eMax) (hm : m = 0) : fpDecode eMax mBits bias negative e m = .inf negative := by
  simp only [fpDecode, if_pos he, if_pos hm]

/-- A zero or subnormal pattern whose sign is bit `k` (R15). -/
theorem fpDecode_subnormal {n k : Nat} {b : BitVec n} (he : e ≠ eMax) (h0 : e = 0) :
    fpDecode eMax mBits bias (b.getLsbD k) e m =
      .real ((-1) ^ (b.extractLsb' k 1).toNat * m * 2 ^ (1 - bias)) := by
  simp only [fpDecode, if_neg he, if_pos h0, sign_eq_neg_one_pow]

/-- A normal pattern, with its implicit leading 1, whose sign is bit `k` (R15). -/
theorem fpDecode_normal {n k : Nat} {b : BitVec n} (he : e ≠ eMax) (h0 : e ≠ 0) :
    fpDecode eMax mBits bias (b.getLsbD k) e m =
      .real ((-1) ^ (b.extractLsb' k 1).toNat * (2 ^ mBits + m) * 2 ^ (e - bias)) := by
  simp only [fpDecode, if_neg he, if_neg h0, sign_eq_neg_one_pow]
  push_cast
  rfl

end

/-- Settles O40, case by case of the exponent and fraction fields, the same for both layouts. -/
theorem floatingPointPatternsDecode : Obligations.FloatingPointPatternsDecode :=
  ⟨fun _ => ⟨fpDecode_nan, fpDecode_inf, fun h0 => fpDecode_subnormal (by omega) h0,
      fun h0 he => fpDecode_normal he h0⟩,
    fun _ => ⟨fpDecode_nan, fpDecode_inf, fun h0 => fpDecode_subnormal (by omega) h0,
      fun h0 he => fpDecode_normal he h0⟩⟩

end Sys2Proof.Machine
end

section
/-! PROOFS. CONFIG, the state after reset, and what a command writes and reads (spec 10_state.md R22, R24, R27, R28,
R32). -/

namespace Sys2Proof.Machine

/-- Each parameter fits its field of CONFIG (R6, R7, R27). -/
theorem config_parameters_lt (c : Config) :
    c.bits < 2 ^ 8 ∧ c.ibits < 2 ^ 8 ∧ c.fbits < 2 ^ 8 ∧ c.signed.toNat < 2 := by
  have hbits := bits_le_64 c
  have hlegal : c.ibits + c.fbits ≤ c.bits := c.legal
  exact ⟨by omega, by omega, by omega, c.signed.toNat_lt⟩

/-- The fields of CONFIG do not overlap, so that the word is their sum (R27). -/
theorem configWord_toNat (c : Config) :
    (configWord c).toNat = 2 ^ 24 * c.signed.toNat + (2 ^ 16 * c.fbits + (2 ^ 8 * c.ibits + c.bits)) := by
  obtain ⟨hbits, hibits, hfbits, hsigned⟩ := config_parameters_lt c
  rw [Nat.two_pow_add_eq_or_of_lt (by omega), Nat.two_pow_add_eq_or_of_lt (by omega),
    Nat.two_pow_add_eq_or_of_lt (by omega)]
  simp (disch := omega) only [configWord, BitVec.toNat_or, BitVec.toNat_shiftLeft, BitVec.toNat_ofNat,
    Nat.shiftLeft_eq, Nat.mod_eq_of_lt]
  ac_rfl

/-- The fields of CONFIG hold the parameters (R27). -/
theorem configWord_fields (c : Config) :
    ((configWord c).extractLsb' 0 8).toNat = c.bits ∧ ((configWord c).extractLsb' 8 8).toNat = c.ibits ∧
      ((configWord c).extractLsb' 16 8).toNat = c.fbits ∧ (configWord c).getLsbD 24 = c.signed ∧
      (configWord c).extractLsb' 25 7 = 0#7 := by
  obtain ⟨hbits, hibits, hfbits, hsigned⟩ := config_parameters_lt c
  have hword := configWord_toNat c
  have hfield (lo len : Nat) : ((configWord c).extractLsb' lo len).toNat = (configWord c).toNat / 2 ^ lo % 2 ^ len := by
    rw [BitVec.extractLsb'_toNat, Nat.shiftRight_eq_div_pow]
  refine ⟨?_, ?_, ?_, ?_, BitVec.eq_of_toNat_eq ?_⟩
  · rw [hfield]; omega
  · rw [hfield]; omega
  · rw [hfield]; omega
  · have hbit : (configWord c).toNat / 2 ^ 24 % 2 = c.signed.toNat := by omega
    rw [BitVec.getLsbD, Nat.testBit_eq_decide_div_mod_eq, hbit]
    cases c.signed <;> rfl
  · rw [hfield, BitVec.toNat_ofNat]; omega

/-- Every edge keeps the parameters, a reset edge included (R31, R240). -/
theorem step_cfg (s t : State) (h : step s = .next t) : t.cfg = s.cfg := by
  obtain ⟨-, hs⟩ | ⟨-, f, -, -, hs⟩ | ⟨-, f, -, -, hs⟩ | ⟨-, -, hs⟩ | ⟨-, -, hs⟩ | ⟨-, -, -, hs⟩ := step_cases s <;>
    rw [hs] at h
  case inr.inl =>
    obtain ⟨u, hu, -, ⟨hcfg, -⟩, -⟩ := completeEdge_total f.cmd (takeSample s)
    rw [hu] at h; cases h; exact hcfg
  case inr.inr.inr.inl =>
    obtain ⟨u, hu, -, ⟨hcfg, -⟩, -⟩ := completeEdge_total (portIn s).cmd { takeSample s with data := (portIn s).data }
    rw [hu] at h; cases h; exact hcfg
  all_goals cases h; rfl

/-- Settles O4: the fields are disjoint, and the `cfg` output is computed from the parameters, which every edge keeps. -/
theorem configRegisterReportsTheParameters : Obligations.ConfigRegisterReportsTheParameters :=
  ⟨fun s => configWord_fields s.cfg, by decide, fun s t h => congrArg configWord (step_cfg s t h)⟩

/-- What reset leaves, whatever the parameters (R32). -/
theorem resetOf_elements (c : Config) :
    (∀ k : Reg, (State.resetOf c).v[k] = 0#64) ∧ (State.resetOf c).p = false ∧ (State.resetOf c).res = 0#64 ∧
      (State.resetOf c).status = 0b000#3 ∧ (State.resetOf c).inFlight = none ∧ (State.resetOf c).ready = true ∧
      (outputs (State.resetOf c)).cfg = configWord (State.resetOf c).cfg :=
  ⟨fun _ => Vector.getElem_replicate _, rfl, rfl, rfl, rfl, rfl, rfl⟩

/-- Settles O1: `State.reset` is the reset state of the default configuration. -/
theorem resetStateIsAllZeroIdleReady : Obligations.ResetStateIsAllZeroIdleReady := by
  rintro s (rfl | ⟨c, rfl⟩)
  · exact resetOf_elements Config.default
  · exact resetOf_elements c

/-- What a command that writes `V[rd]` does, also after P and the registers it does not read were changed: its result, in
`V[rd]` and RES, and STATUS are the same, and nothing else is written (R22, R24, R28). -/
theorem exec_result {i : Instr} {rd : Reg} (hd : destOf i = some rd) {s t : State} (h : exec i s = .next t)
    {v' : Vector Word 8} (hv : ∀ k ∈ sourcesOf i, v'[k] = s.v[k]) (b : Bool) :
    ∃ t', exec i { s with v := v', p := b } = .next t' ∧ ResultIn { s with v := v', p := b } t' rd t.res ∧
      t'.status = t.status := by
  cases i with
  | nop | rd | clrst | ceq | cne | clt | cle | cgt | cge => cases hd
  | zero | ldraw => cases hd; cases h; exact ⟨_, rfl, writeResult_resultIn ..⟩
  | cvts rd | cvtd rd =>
    cases hd; cases h
    obtain ⟨⟨-, hres, -⟩, hstatus⟩ := writeConversion_resultIn s rd _
    rw [hres, hstatus]
    exact ⟨_, rfl, writeConversion_resultIn ..⟩
  | mov _ a | inc _ a | dec _ a | shl _ a | shr _ a =>
    cases hd; cases h
    have ha := hv a (by simp [sourcesOf])
    simp only [writeResult_res, readV, ← ha]
    exact ⟨_, rfl, writeResult_resultIn ..⟩
  | add _ a c | sub _ a c | mul _ a c =>
    cases hd; cases h
    have ha := hv a (by simp [sourcesOf])
    have hc := hv c (by simp [sourcesOf])
    simp only [writeResult_res, readV, ← ha, ← hc]
    exact ⟨_, rfl, writeResult_resultIn ..⟩
  | div _ a c =>
    cases hd
    have ha := hv a (by simp [sourcesOf])
    have hc := hv c (by simp [sourcesOf])
    by_cases h0 : val s.cfg s.v[c] = 0
    · rw [exec_div_zero rd a c s h0] at h; cases h
      rw [← hc] at h0
      exact ⟨_, exec_div_zero rd a c _ h0, (writeResult_resultIn ..).1, rfl⟩
    · rw [exec_div_nonzero rd a c s h0] at h; cases h
      rw [← hc] at h0
      rw [writeResult_res, ← ha, ← hc]
      exact ⟨_, exec_div_nonzero rd a c _ h0, writeResult_resultIn ..⟩

/-- What a command that writes a value register does (R22, R28). -/
theorem exec_resultIn {i : Instr} {rd : Reg} (hd : destOf i = some rd) {s t : State} (h : exec i s = .next t) :
    ResultIn s t rd t.res := by
  obtain ⟨t', h', hres, -⟩ := exec_result hd h (fun _ _ => rfl) s.p
  cases h.symm.trans h'
  exact hres

/-- What a command without a destination does: it has no effect, clears STATUS, writes RES (RD), or writes P with a test of
its two sources (R24, R28, R200, R204). -/
theorem exec_of_destOf_none {i : Instr} (hd : destOf i = none) :
    (i = .nop ∧ ∀ s, exec i s = .next s) ∨ (i = .clrst ∧ ∀ s, exec i s = .next (clearStatus s)) ∨
      (∃ a, i = .rd a ∧ ∀ s, exec i s = .next (writeRes s s.v[a])) ∨
      (isCompare i = true ∧ ∃ (a b : Reg) (test : Config → Word → Word → Bool),
        sourcesOf i = [a, b] ∧ ∀ s, exec i s = .next (writeP s (test s.cfg s.v[a] s.v[b]))) := by
  cases i with
  | nop => exact .inl ⟨rfl, fun _ => rfl⟩
  | clrst => exact .inr (.inl ⟨rfl, fun _ => rfl⟩)
  | rd a => exact .inr (.inr (.inl ⟨a, rfl, fun _ => rfl⟩))
  | ceq a b => exact .inr (.inr (.inr ⟨rfl, a, b, predEq, rfl, fun _ => rfl⟩))
  | cne a b => exact .inr (.inr (.inr ⟨rfl, a, b, predNe, rfl, fun _ => rfl⟩))
  | clt a b => exact .inr (.inr (.inr ⟨rfl, a, b, predLt, rfl, fun _ => rfl⟩))
  | cle a b => exact .inr (.inr (.inr ⟨rfl, a, b, predLe, rfl, fun _ => rfl⟩))
  | cgt a b => exact .inr (.inr (.inr ⟨rfl, a, b, predGt, rfl, fun _ => rfl⟩))
  | cge a b => exact .inr (.inr (.inr ⟨rfl, a, b, predGe, rfl, fun _ => rfl⟩))
  | _ => cases hd

/-- A compare has no destination (R22, R24). -/
theorem isCompare_of_destOf_some {i : Instr} {rd : Reg} (hd : destOf i = some rd) : isCompare i = false := by
  cases i with
  | ceq | cne | clt | cle | cgt | cge => cases hd
  | _ => rfl

/-- A command changes no value register but its destination (R22). -/
theorem exec_v_of_ne_dest {i : Instr} {s t : State} (h : exec i s = .next t) {k : Reg} (hk : destOf i ≠ some k) :
    t.v[k] = s.v[k] := by
  cases hd : destOf i with
  | some rd =>
    obtain ⟨-, -, hframe, -⟩ := exec_resultIn hd h
    exact hframe k fun hkr => hk (hkr ▸ hd)
  | none =>
    obtain ⟨-, he⟩ | ⟨-, he⟩ | ⟨a, -, he⟩ | ⟨-, a, b, test, -, he⟩ := exec_of_destOf_none hd <;>
      rw [he] at h <;> cases h <;> rfl

/-- A command that is no compare keeps P (R24). -/
theorem exec_p_of_not_compare {i : Instr} {s t : State} (h : exec i s = .next t) (hi : isCompare i = false) :
    t.p = s.p := by
  cases hd : destOf i with
  | some rd =>
    obtain ⟨-, -, -, hp, -⟩ := exec_resultIn hd h
    exact hp
  | none =>
    obtain ⟨-, he⟩ | ⟨-, he⟩ | ⟨a, -, he⟩ | ⟨hc, -⟩ := exec_of_destOf_none hd
    case inr.inr.inr => rw [hi] at hc; cases hc
    all_goals rw [he] at h; cases h; rfl

/-- A command's effect depends on no value register but its sources, and not on P (R22, R24). -/
theorem exec_reads_sources_only {i : Instr} {s t : State} (h : exec i s = .next t) {v' : Vector Word 8}
    (hv : ∀ k ∈ sourcesOf i, v'[k] = s.v[k]) (b : Bool) :
    ∃ t', exec i { s with v := v', p := b } = .next t' ∧ t'.res = t.res ∧ t'.status = t.status ∧
      t'.p = (if isCompare i then t.p else b) ∧ ∀ rd : Reg, destOf i = some rd → t'.v[rd] = t.v[rd] := by
  cases hd : destOf i with
  | some rd =>
    obtain ⟨hold, -⟩ := exec_resultIn hd h
    obtain ⟨t', h', ⟨hnew, hres, -, hp, -⟩, hstatus⟩ := exec_result hd h hv b
    refine ⟨t', h', hres, hstatus, ?_, ?_⟩
    · rw [hp, isCompare_of_destOf_some hd]; rfl
    · rintro _ ⟨⟩
      rw [hnew, hold]
  | none =>
    obtain ⟨rfl, he⟩ | ⟨rfl, he⟩ | ⟨a, rfl, he⟩ | ⟨hc, a, c, test, hsrc, he⟩ := exec_of_destOf_none hd <;>
      rw [he] at h <;> cases h
    · exact ⟨_, he _, rfl, rfl, rfl, nofun⟩
    · exact ⟨_, he _, rfl, rfl, rfl, nofun⟩
    · exact ⟨_, he _, hv a (by simp [sourcesOf]), rfl, rfl, nofun⟩
    · have ha := hv a (by simp [hsrc])
      have hc' := hv c (by simp [hsrc])
      exact ⟨_, he _, rfl, rfl, by rw [if_pos hc, writeP_p, ← ha, ← hc', writeP_p], nofun⟩

/-- An illegal word raises ILL and does nothing else (R77, R221). -/
theorem runWord_of_illegal {w : Cmd} (hw : legalWord w = false) (s : State) :
    runWord w s = .next (raiseEvent s .ill) := by
  obtain ⟨i, hi, -⟩ | ⟨-, h⟩ := runWord_cases w s
  · simp [legalWord, hi] at hw
  · exact h

/-- Settles O12: a compare's test is its truth value; that P is not read needs the frame of the value registers beside the
destination. -/
theorem predicateIsWrittenOnlyByCompares : Obligations.PredicateIsWrittenOnlyByCompares := by
  refine ⟨fun w s t h => ?_, fun a b s => ?_, fun i s t b h => ?_, fun _ => rfl, fun _ => rfl⟩
  · obtain ⟨i, hw, he⟩ | ⟨-, he⟩ := runWord_cases w s <;> rw [he] at h
    · cases hi : isCompare i with
      | true => exact .inr ⟨i, hw, hi⟩
      | false => exact .inl (exec_p_of_not_compare h hi)
    · cases h; exact .inl rfl
  · exact ⟨⟨_, rfl, rfl⟩, ⟨_, rfl, rfl⟩, ⟨_, rfl, rfl⟩, ⟨_, rfl, rfl⟩, ⟨_, rfl, rfl⟩, ⟨_, rfl, rfl⟩⟩
  · obtain ⟨u, hu, hres, hstatus, hp, hdest⟩ := exec_reads_sources_only h (fun _ _ => rfl) b
    refine ⟨u, hu, Vector.ext fun k hk => ?_, hres, hstatus, hp⟩
    by_cases hd : destOf i = some ⟨k, hk⟩
    · exact hdest _ hd
    · exact (exec_v_of_ne_dest hu hd).trans (exec_v_of_ne_dest h hd).symm

/-- Settles O13: a command with a destination puts one result in both registers, and of the others only RD writes RES. -/
theorem resFollowsTheWrittenRegister : Obligations.ResFollowsTheWrittenRegister := by
  refine ⟨fun i s t h => ⟨fun rd hd => ?_, ?_, fun hd hrd => ?_⟩,
    fun w s hw => ⟨_, runWord_of_illegal hw s, rfl⟩, fun _ => rfl, fun _ => rfl⟩
  · obtain ⟨hrd, -⟩ := exec_resultIn hd h
    exact hrd.symm
  · rintro rs1 rfl
    cases h; rfl
  · obtain ⟨-, he⟩ | ⟨-, he⟩ | ⟨a, hi, -⟩ | ⟨-, a, b, test, -, he⟩ := exec_of_destOf_none hd
    case inr.inr.inl => exact absurd hi (hrd a)
    all_goals rw [he] at h; cases h; rfl

/-- Settles O14: the write frame, and the independence of every other register and of P with P left as it is. -/
theorem commandsAccessOnlyTheirRegisters : Obligations.CommandsAccessOnlyTheirRegisters := by
  refine ⟨fun i s t h k hk => exec_v_of_ne_dest h hk, fun i s t v' hv h => ?_,
    fun w s hw => ⟨_, runWord_of_illegal hw s, rfl⟩⟩
  obtain ⟨t', h', hres, hstatus, hp, hdest⟩ := exec_reads_sources_only h hv s.p
  refine ⟨t', h', ?_, hres, hstatus, hdest⟩
  cases hi : isCompare i with
  | true => rw [hp, hi, if_pos rfl]
  | false => rw [hp, hi, exec_p_of_not_compare h hi]; rfl

end Sys2Proof.Machine
end

section
/-! PROOFS. The opcode map, the words it makes legal, and the bits of DATA that are not read (spec 30_encoding.md R75 to
R77). -/

namespace Sys2Proof.Machine

/-- The decoder's row of a word has the mask that the opcode map lists for the word's opcode, and there is no such row
where the map lists none (R76). -/
theorem rowOf_mask_eq_lookup (w : Cmd) :
    (rowOf w).map (fun row => row.1.mask) = opcodeMap.lookup (opcodeField w) := by
  unfold rowOf
  split
  case h_23 => -- the opcode is none of the 22
    symm
    rw [Option.map_none, List.lookup_eq_none_iff]
    simp_all [opcodeMap]
  all_goals
    rename_i hopc
    rw [hopc]
    rfl

/-- R77, for the row that the decoder selects: a word is legal when its fixed bits are that row's. -/
theorem legalWord_iff_rowOf (w : Cmd) :
    legalWord w = true ↔
      ∃ f i, rowOf w = some (f, i) ∧ w &&& f.mask = BitVec.ofNat 32 (opcodeField w) <<< 24 := by
  unfold legalWord decode
  cases rowOf w with
  | none => simp
  | some row =>
    obtain ⟨f, i⟩ := row
    by_cases hfix : w &&& f.mask = BitVec.ofNat 32 (opcodeField w) <<< 24
    · simp [hfix]
    · by_cases hres : w &&& reservedBits = 0#32 <;> simp [hfix, hres]

/-- R77, for the mask that the opcode map lists. -/
theorem legalWord_iff_lookup (w : Cmd) :
    legalWord w = true ↔
      ∃ m, opcodeMap.lookup (opcodeField w) = some m ∧ w &&& m = BitVec.ofNat 32 (opcodeField w) <<< 24 := by
  rw [legalWord_iff_rowOf, ← rowOf_mask_eq_lookup]
  simp only [Option.map_eq_some_iff, Prod.exists]
  constructor
  · rintro ⟨f, i, hrow, hfix⟩
    exact ⟨_, ⟨f, i, hrow, rfl⟩, hfix⟩
  · rintro ⟨_, ⟨f, i, hrow, rfl⟩, hfix⟩
    exact ⟨f, i, hrow, hfix⟩

/-- No two rows share an opcode (R77). -/
theorem opcodeMap_opcodes_nodup : (opcodeMap.map Prod.fst).Nodup := by decide

/-- Looking an opcode up finds the row that has it (R76, R77). -/
theorem opcodeMap_lookup_eq_some_iff (opc : Nat) (m : Cmd) : opcodeMap.lookup opc = some m ↔ (opc, m) ∈ opcodeMap := by
  constructor
  · intro h
    obtain ⟨before, after, hmap, -⟩ := List.lookup_eq_some_iff.1 h
    simp [hmap]
  · have found : ∀ row ∈ opcodeMap, opcodeMap.lookup row.1 = some row.2 := by decide
    exact found (opc, m)

/-- Settles O15: the decoder's rows are those of the opcode map, and an illegal word only raises ILL. -/
theorem legalWordsAreThoseOfTheOpcodeMap : Obligations.LegalWordsAreThoseOfTheOpcodeMap := by
  refine ⟨fun w => ?_, opcodeMap_opcodes_nodup, fun w s hw => runWord_of_illegal hw s⟩
  simp only [legalWord_iff_lookup, opcodeMap_lookup_eq_some_iff]
  constructor
  · rintro ⟨m, hrow, hfix⟩
    exact ⟨_, hrow, rfl, hfix⟩
  · rintro ⟨⟨opc, m⟩, hrow, hopc, hfix⟩
    obtain rfl : opcodeField w = opc := hopc
    exact ⟨m, hrow, hfix⟩

/-- The low bits of a pattern, read as a field, depend on those bits alone. -/
theorem extractLsb'_zero_congr {n len : Nat} {x y : BitVec n} (h : ∀ k < len, x.getLsbD k = y.getLsbD k) :
    x.extractLsb' 0 len = y.extractLsb' 0 len := by
  apply BitVec.eq_of_getLsbD_eq
  intro k hk
  simp only [BitVec.getLsbD_extractLsb', Nat.zero_add, h k hk]

/-- A conversion of a given input does not read DATA, and leaves it (R102, R103). -/
theorem writeConversion_with_data (s : State) (rd : Reg) (x : FpValue) (d : Data) :
    writeConversion { s with data := d } rd x = { writeConversion s rd x with data := d } := by
  cases x <;> rfl

/-- A command reads no more of DATA than its data operand: CVTS, CVTD and LDRAW their own, every other command none
(R75). -/
theorem exec_reads_data_operand_only {i : Instr} {s t : State} {d : Data} (h : exec i s = .next t)
    (single : ∀ rd, i = .cvts rd → dataSingle { s with data := d } = dataSingle s)
    (double : ∀ rd, i = .cvtd rd → dataDouble { s with data := d } = dataDouble s)
    (raw : ∀ rd, i = .ldraw rd → dataRaw { s with data := d } = dataRaw s) :
    exec i { s with data := d } = .next { t with data := d } := by
  cases i with
  | cvts rd =>
    cases h
    rw [exec, execCvts, single rd rfl, writeConversion_with_data]
  | cvtd rd =>
    cases h
    rw [exec, execCvtd, double rd rfl, writeConversion_with_data]
  | ldraw rd =>
    cases h
    rw [exec, execLdraw, raw rd rfl]
    rfl
  | div rd a b =>
    by_cases h0 : val s.cfg s.v[b] = 0
    · rw [exec_div_zero rd a b s h0] at h; cases h
      exact exec_div_zero rd a b _ h0
    · rw [exec_div_nonzero rd a b s h0] at h; cases h
      exact exec_div_nonzero rd a b _ h0
  | _ => cases h; rfl

/-- Settles O49: under each of the four conditions the data operand that the command reads is the same. -/
theorem unreadDataBitsAreIgnored : Obligations.UnreadDataBitsAreIgnored := by
  rintro i s t d h (other | ⟨rd, rfl, low⟩ | ⟨rd, rfl, same⟩ | ⟨rd, rfl, low⟩)
  · exact exec_reads_data_operand_only h (fun rd hi => absurd hi (other rd).1)
      (fun rd hi => absurd hi (other rd).2.1) (fun rd hi => absurd hi (other rd).2.2)
  · exact exec_reads_data_operand_only h (fun _ _ => extractLsb'_zero_congr low) nofun nofun
  · exact exec_reads_data_operand_only h nofun (fun _ _ => same) nofun
  · exact exec_reads_data_operand_only h nofun nofun (fun _ _ => congrArg (zext 64) (extractLsb'_zero_congr low))

end Sys2Proof.Machine
end

section
/-! PROOFS. The construction family: ZERO, CVTS and CVTD (spec 40_construction.md R100 to R106). -/

namespace Sys2Proof.Machine

theorem wrap_one (c : Config) : wrap c 1 = 1#64 := by
  have one_lt : (1 : ℤ) < 2 ^ c.bits := one_lt_pow₀ (by norm_num) (bits_pos c).ne'
  have toNat_eq : ((wrap c 1).toNat : ℤ) = 1 := by rw [wrap_toNat, Int.emod_eq_of_lt (by norm_num) one_lt]
  exact BitVec.eq_of_toNat_eq (by exact_mod_cast toNat_eq)

/-- `wrap(-1)` is all ones (R13, R106). -/
theorem wrap_neg_one_toNat (c : Config) : (wrap c (-1)).toNat = 2 ^ c.bits - 1 := by
  have pos : (0 : ℤ) < 2 ^ c.bits := by positivity
  have toNat_eq : ((wrap c (-1)).toNat : ℤ) = -1 + 2 ^ c.bits := by
    rw [wrap_toNat, ← Int.add_emod_right, Int.emod_eq_of_lt (by omega) (by omega)]
  have succ_eq : (wrap c (-1)).toNat + 1 = 2 ^ c.bits := by zify; linarith
  omega

theorem val_wrap_neg_one_of_signed {c : Config} (h : c.signed = true) : val c (wrap c (-1)) = -1 := by
  have half := two_pow_bits_half c
  have pos := two_pow_bits_pos c
  have all_ones := wrap_neg_one_toNat c
  rw [val, if_pos h, sint_eq c (wrap_fits c (-1)), if_pos (by omega), all_ones]
  push_cast [Nat.cast_sub pos]
  ring

theorem val_wrap_neg_one_of_unsigned {c : Config} (h : c.signed = false) : val c (wrap c (-1)) = 2 ^ c.bits - 1 := by
  rw [val, if_neg (by simp [h]), uint, wrap_neg_one_toNat]
  push_cast [Nat.cast_sub (two_pow_bits_pos c)]
  rfl

/-- Scaling by `2^F` keeps the sign, so that the side to which a half rounds is told by the input itself (R100). -/
theorem rhaz_mul_two_pow (x : ℚ) (k : Nat) :
    rhaz (x * 2 ^ k) = if 0 ≤ x then ⌊x * 2 ^ k + 1 / 2⌋ else -⌊-(x * 2 ^ k) + 1 / 2⌋ := by
  have sign_kept : 0 ≤ x * 2 ^ k ↔ 0 ≤ x := mul_nonneg_iff_of_pos_right (by positivity)
  simp only [rhaz, sign_kept]

/-- Rounded at the scale `2^F` and read back, a value moves by at most half a unit (R105). -/
theorem rhaz_mul_two_pow_near (x : ℚ) (k : Nat) : |(rhaz (x * 2 ^ k) : ℚ) / 2 ^ k - x| ≤ 1 / 2 / 2 ^ k := by
  have pos : (0 : ℚ) < 2 ^ k := by positivity
  calc |(rhaz (x * 2 ^ k) : ℚ) / 2 ^ k - x|
      = |(rhaz (x * 2 ^ k) : ℚ) - x * 2 ^ k| / 2 ^ k := by
        rw [div_sub' pos.ne', abs_div, abs_of_pos pos, mul_comm]
    _ ≤ 1 / 2 / 2 ^ k := by gcongr; exact rhaz_near _

/-- The half step of the scale rounds up (R106). -/
theorem rhaz_half_step (k : Nat) : rhaz (1 / 2 / 2 ^ k * 2 ^ k) = 1 := by
  rw [div_mul_cancel₀ _ (by positivity)]
  norm_num [rhaz]

/-- The negative half step rounds down, being negative (R106). -/
theorem rhaz_neg_half_step (k : Nat) : rhaz (-(1 / 2 / 2 ^ k) * 2 ^ k) = -1 := by
  rw [neg_mul, div_mul_cancel₀ _ (by positivity)]
  norm_num [rhaz]

/-- A conversion of a finite input: the rounded value in the two registers, and no event (R100, R102, R103). -/
theorem writeConversion_real (s : State) (rd : Reg) (x : ℚ) :
    ResultIn s (writeConversion s rd (.real x)) rd (wrap s.cfg (rhaz (x * 2 ^ s.cfg.fbits))) ∧
      (writeConversion s rd (.real x)).status = s.status :=
  writeConversion_resultIn s rd (.real x)

theorem writeConversion_real_v (s : State) (rd : Reg) (x : ℚ) :
    (writeConversion s rd (.real x)).v[rd] = wrap s.cfg (rhaz (x * 2 ^ s.cfg.fbits)) :=
  (writeConversion_real s rd x).1.1

/-- A conversion of a NaN or an infinity: 0 in the two registers, and the NV event (R100, R102, R103). -/
theorem writeConversion_not_real (s : State) (rd : Reg) {input : FpValue} (h : ∀ x : ℚ, input ≠ .real x) :
    ResultIn s (writeConversion s rd input) rd 0#64 ∧
      (writeConversion s rd input).status = s.status ||| 0b100#3 := by
  cases input with
  | nan => exact writeConversion_resultIn s rd .nan
  | inf negative => exact writeConversion_resultIn s rd (.inf negative)
  | real x => exact absurd rfl (h x)

/-- What a conversion does with any input, in the form of R102 and R103, which differ only in the operand. -/
theorem writeConversion_cases (s : State) (rd : Reg) (input : FpValue) :
    ∃ r : Word, ResultIn s (writeConversion s rd input) rd r ∧
      (∀ x : ℚ, input = .real x →
        (r.toNat : ℤ) = (if 0 ≤ x then ⌊x * 2 ^ s.cfg.fbits + 1 / 2⌋ else -⌊-(x * 2 ^ s.cfg.fbits) + 1 / 2⌋) %
            2 ^ s.cfg.bits ∧ (writeConversion s rd input).status = s.status) ∧
      ((∀ x : ℚ, input ≠ .real x) → r = 0#64 ∧ (writeConversion s rd input).status = s.status ||| 0b100#3) := by
  by_cases finite : ∃ x : ℚ, input = .real x
  · obtain ⟨x, rfl⟩ := finite
    obtain ⟨result, status⟩ := writeConversion_real s rd x
    refine ⟨_, result, ?_, fun h => absurd rfl (h x)⟩
    rintro y ⟨⟩
    exact ⟨by rw [wrap_toNat, rhaz_mul_two_pow], status⟩
  · have invalid := not_exists.1 finite
    obtain ⟨result, status⟩ := writeConversion_not_real s rd invalid
    exact ⟨_, result, fun x h => absurd h (invalid x), fun _ => ⟨rfl, status⟩⟩

theorem exec_cvts (rd : Reg) (s : State) :
    exec (.cvts rd) s = .next (writeConversion s rd (fpval32 (s.data.extractLsb' 0 32))) := rfl

theorem exec_cvtd (rd : Reg) (s : State) : exec (.cvtd rd) s = .next (writeConversion s rd (fpval64 s.data)) := rfl

/-- Settles O21: CVTS writes the conversion of `DATA[31:0]`. -/
theorem cvtsConvertsTheBinary32Operand : Obligations.CvtsConvertsTheBinary32Operand := fun rd s =>
  ⟨by decide +revert, _, (writeConversion_cases s rd _).imp fun _ h => ⟨exec_cvts rd s, h⟩⟩

/-- Settles O22: CVTD writes the conversion of `DATA[63:0]`. -/
theorem cvtdConvertsTheBinary64Operand : Obligations.CvtdConvertsTheBinary64Operand := fun rd s =>
  ⟨by decide +revert, _, (writeConversion_cases s rd _).imp fun _ h => ⟨exec_cvtd rd s, h⟩⟩

/-- Settles O41: in range, the pattern reads as the rounded scaled value, which is near the scaled value. -/
theorem conversionRoundTripsWithinHalfAUnit : Obligations.ConversionRoundTripsWithinHalfAUnit := by
  intro rd s x in_range
  have near : |(val s.cfg (writeConversion s rd (.real x)).v[rd] : ℚ) / 2 ^ s.cfg.fbits - x| ≤
      1 / 2 / 2 ^ s.cfg.fbits := by
    rw [writeConversion_real_v, in_range]
    exact rhaz_mul_two_pow_near x _
  exact ⟨fun single => ⟨_, single ▸ exec_cvts rd s, near⟩, fun double => ⟨_, double ▸ exec_cvtd rd s, near⟩⟩

/-- Settles O42: the scaled half steps round to 1 and -1, and `wrap(-1)` is all ones. -/
theorem halfStepsRoundAwayFromZero : Obligations.HalfStepsRoundAwayFromZero := by
  intro rd s i input operand
  have converts : exec i s = .next (writeConversion s rd input) := by
    rcases operand with ⟨rfl, rfl⟩ | ⟨rfl, rfl⟩
    · exact exec_cvts rd s
    · exact exec_cvtd rd s
  constructor
  · rintro rfl
    refine ⟨_, converts, ?_⟩
    rw [writeConversion_real_v, rhaz_half_step, wrap_one]
  · rintro rfl
    refine ⟨_, converts, ?_⟩
    rw [writeConversion_real_v, rhaz_neg_half_step]
    exact ⟨wrap_neg_one_toNat s.cfg, val_wrap_neg_one_of_signed, val_wrap_neg_one_of_unsigned⟩

/-- Settles O20: ZERO writes the result 0 and does nothing else. -/
theorem zeroWritesZero : Obligations.ZeroWritesZero := fun rd s =>
  ⟨by decide +revert, _, rfl, writeResult_resultIn s rd 0#64⟩

end Sys2Proof.Machine
end

section
/-! PROOFS. The adder family: ADD, SUB, INC and DEC (spec 41_addsub.md R120 to R126). -/

namespace Sys2Proof.Machine

theorem wrap_zero (c : Config) : wrap c 0 = 0#64 := by simp [wrap]

/-- A pattern that fits is what its unsigned value wraps to (R13). -/
theorem wrap_uint {c : Config} {x : Word} (h : FitsWidth c x) : wrap c x.toNat = x :=
  (wrap_eq_of_emod_eq c (val_emod c x).symm).trans (wrap_val c h)

/-- A sum that was already wrapped wraps on as if it had not been (R13, R126). -/
theorem wrap_wrap_add (c : Config) (m n : ℤ) : wrap c ((wrap c m).toNat + n) = wrap c (m + n) := by
  apply wrap_eq_of_emod_eq
  rw [wrap_toNat, Int.emod_add_emod]

/-- The same for the second summand (R13, R126). -/
theorem wrap_add_wrap (c : Config) (m n : ℤ) : wrap c (m + (wrap c n).toNat) = wrap c (m + n) := by
  rw [add_comm, wrap_wrap_add, add_comm]

theorem writeResult_v_same (s : State) (rd : Reg) (x : Word) : (writeResult s rd x).v[rd] = x :=
  (writeResult_resultIn s rd x).1.1

theorem writeResult_v_of_ne (s : State) {rd k : Reg} (h : k ≠ rd) (x : Word) : (writeResult s rd x).v[k] = s.v[k] := by
  obtain ⟨⟨-, -, frame, -⟩, -⟩ := writeResult_resultIn s rd x
  exact frame k h

/-- Of two results written to one register the second remains (R28). -/
theorem writeResult_writeResult (s : State) (rd : Reg) (x y : Word) :
    writeResult (writeResult s rd x) rd y = writeResult s rd y := by
  simp [writeResult, writeRes, writeV]

theorem exec_mov (rd a : Reg) (s : State) : exec (.mov rd a) s = .next (writeResult s rd s.v[a]) := rfl

/-- The command `op rd a` adds the integer `addend` to its first source `V[a]` modulo `2^W`. So do all four of the family,
and what does not turn on the addend is proved once for them. -/
def Adds (op : Reg → Reg → Instr) (addend : State → ℤ) : Prop :=
  ∀ (rd a : Reg) (s : State), exec (op rd a) s = .next (writeResult s rd (wrap s.cfg (s.v[a].toNat + addend s)))

theorem add_adds (b : Reg) : Adds (.add · · b) fun s => s.v[b].toNat := fun _ _ _ => rfl

theorem sub_adds (b : Reg) : Adds (.sub · · b) fun s => -s.v[b].toNat := fun _ _ _ => rfl

theorem inc_adds : Adds .inc fun s => 2 ^ s.cfg.fbits := by
  intro rd a s
  rw [exec, execInc, Config.scale]
  push_cast
  rfl

theorem dec_adds : Adds .dec fun s => -2 ^ s.cfg.fbits := by
  intro rd a s
  rw [exec, execDec, Config.scale]
  push_cast
  rfl

section
variable {op : Reg → Reg → Instr} {addend : State → ℤ} (h : Adds op addend)
include h

/-- The wrapped sum in the two registers, and no event (R120 to R123). -/
theorem Adds.result (rd a : Reg) (s : State) :
    ∃ (t : State) (r : Word), exec (op rd a) s = .next t ∧ ResultIn s t rd r ∧ t.status = s.status ∧
      (r.toNat : ℤ) = (s.v[a].toNat + addend s) % 2 ^ s.cfg.bits := by
  obtain ⟨result, status⟩ := writeResult_resultIn s rd (wrap s.cfg (s.v[a].toNat + addend s))
  exact ⟨_, _, h rd a s, result, status, wrap_toNat ..⟩

/-- The binary form is the compound form of a copy, where the copy does not change the addend (R124). -/
theorem Adds.binary_eq_compound_of_copy (rd a : Reg) (s : State)
    (kept : ∀ x : Word, addend (writeResult s rd x) = addend s) :
    ∃ t u : State, exec (.mov rd a) s = .next t ∧ exec (op rd rd) t = .next u ∧ exec (op rd a) s = .next u := by
  refine ⟨_, _, exec_mov rd a s, ?_, h rd a s⟩
  rw [h, writeResult_v_same, kept, writeResult_cfg, writeResult_writeResult]

/-- The bits are the same wherever the destination is (R124). -/
theorem Adds.same_bits_at_any_destination (rd rd' a : Reg) (s : State) :
    ∃ t t' : State, exec (op rd a) s = .next t ∧ exec (op rd' a) s = .next t' ∧ t.v[rd] = t'.v[rd'] := by
  refine ⟨_, _, h rd a s, h rd' a s, ?_⟩
  rw [writeResult_v_same, writeResult_v_same]

/-- `wrap` does not read SIGNED, so that the command does not where the addend does not (R125). -/
theorem Adds.independent_of_signed {rd a : Reg} {s t : State} (b : Bool) (ht : exec (op rd a) s = .next t)
    (kept : addend { s with cfg := { s.cfg with signed := b } } = addend s) :
    exec (op rd a) { s with cfg := { s.cfg with signed := b } } = .next { t with cfg := { s.cfg with signed := b } } := by
  rw [h] at ht ⊢
  cases ht
  rw [kept]
  rfl

end

/-! The words of the family, for every choice of registers (R71, R76). -/

theorem decode_add : ∀ rd rs1 rs2 : Reg,
    decode (BitVec.ofNat 32 (0x10000000 + rd * 2 ^ 20 + rs1 * 2 ^ 16 + rs2 * 2 ^ 12)) = .ok (.add rd rs1 rs2) := by
  decide +kernel

theorem decode_sub : ∀ rd rs1 rs2 : Reg,
    decode (BitVec.ofNat 32 (0x11000000 + rd * 2 ^ 20 + rs1 * 2 ^ 16 + rs2 * 2 ^ 12)) = .ok (.sub rd rs1 rs2) := by
  decide +kernel

theorem decode_inc : ∀ rd rs1 : Reg,
    decode (BitVec.ofNat 32 (0x12000000 + rd * 2 ^ 20 + rs1 * 2 ^ 16)) = .ok (.inc rd rs1) := by
  decide +kernel

theorem decode_dec : ∀ rd rs1 : Reg,
    decode (BitVec.ofNat 32 (0x13000000 + rd * 2 ^ 20 + rs1 * 2 ^ 16)) = .ok (.dec rd rs1) := by
  decide +kernel

/-- Settles O23: the addend is `V[rs2]`. -/
theorem addWrapsModuloTheWidth : Obligations.AddWrapsModuloTheWidth := by
  intro rd rs1 rs2 s
  exact ⟨decode_add rd rs1 rs2, by exact_mod_cast (add_adds rs2).result rd rs1 s⟩

/-- Settles O24: the addend is `V[rs2]` negated. -/
theorem subWrapsModuloTheWidth : Obligations.SubWrapsModuloTheWidth := by
  intro rd rs1 rs2 s
  exact ⟨decode_sub rd rs1 rs2, (sub_adds rs2).result rd rs1 s⟩

/-- Settles O25: the addend is the unit `2^F`. -/
theorem incAddsOneUnit : Obligations.IncAddsOneUnit := by
  intro rd rs1 s
  exact ⟨decode_inc rd rs1, by exact_mod_cast inc_adds.result rd rs1 s⟩

/-- Settles O26: the addend is the unit `2^F` negated. -/
theorem decSubtractsOneUnit : Obligations.DecSubtractsOneUnit := by
  intro rd rs1 s
  exact ⟨decode_dec rd rs1, dec_adds.result rd rs1 s⟩

/-- Settles O43: a copy to another register than `b` keeps the addend `V[b]`, and any copy keeps the unit. -/
theorem binaryFormsAreCompoundFormsOfACopy : Obligations.BinaryFormsAreCompoundFormsOfACopy := by
  intro rd rd' a b s
  have kept (h : rd ≠ b) (x : Word) : ((writeResult s rd x).v[b].toNat : ℤ) = s.v[b].toNat := by
    rw [writeResult_v_of_ne s h.symm]
  exact ⟨fun h => (add_adds b).binary_eq_compound_of_copy rd a s (kept h),
    fun h => (sub_adds b).binary_eq_compound_of_copy rd a s fun x => congrArg Neg.neg (kept h x),
    inc_adds.binary_eq_compound_of_copy rd a s fun _ => rfl,
    dec_adds.binary_eq_compound_of_copy rd a s fun _ => rfl,
    (add_adds b).same_bits_at_any_destination rd rd' a s, (sub_adds b).same_bits_at_any_destination rd rd' a s,
    inc_adds.same_bits_at_any_destination rd rd' a s, dec_adds.same_bits_at_any_destination rd rd' a s⟩

/-- Settles O44: neither a register nor the unit turns on SIGNED. -/
theorem additionDoesNotDependOnSignedness : Obligations.AdditionDoesNotDependOnSignedness := by
  rintro i s t b (⟨rd, x, y, rfl | rfl⟩ | ⟨rd, x, rfl | rfl⟩) h
  · exact (add_adds y).independent_of_signed b h rfl
  · exact (sub_adds y).independent_of_signed b h rfl
  · exact inc_adds.independent_of_signed b h rfl
  · exact dec_adds.independent_of_signed b h rfl

/-- Settles O45: `wrap` gives a pattern that fits back, and the two nested sums wrap to one pattern. -/
theorem additionLawsHoldForEveryPattern : Obligations.AdditionLawsHoldForEveryPattern := by
  rintro rd a b c s ⟨fits, -⟩
  refine ⟨fun hb => ⟨_, add_adds b rd a s, ?_⟩, ⟨_, sub_adds a rd a s, ?_⟩,
    fun ha hc => ⟨_, _, _, _, add_adds b rd a s, add_adds c rd rd _, add_adds c rd b s, add_adds rd rd a _, ?_⟩⟩
  · simp only [writeResult_v_same, hb, BitVec.toNat_zero, Nat.cast_zero, add_zero, wrap_uint (fits a)]
  · rw [writeResult_v_same, add_neg_cancel, wrap_zero]
  · simp only [writeResult_v_same, writeResult_v_of_ne s ha.symm, writeResult_v_of_ne s hc.symm, writeResult_cfg]
    rw [wrap_wrap_add, wrap_add_wrap, add_assoc]

end Sys2Proof.Machine
end

section
/-! PROOFS. The comparator family: CEQ, CNE, CLT, CLE, CGT and CGE (spec 42_compare.md R140 to R147). -/

namespace Sys2Proof.Machine

/-! What each command answers: P holds the truth value of its relation on `val` (R141 to R146). -/

theorem exec_ceq (a b : Reg) (s : State) :
    exec (.ceq a b) s = .next (writeP s (decide (val s.cfg s.v[a] = val s.cfg s.v[b]))) := rfl

theorem exec_cne (a b : Reg) (s : State) :
    exec (.cne a b) s = .next (writeP s (decide (val s.cfg s.v[a] ≠ val s.cfg s.v[b]))) := rfl

theorem exec_clt (a b : Reg) (s : State) :
    exec (.clt a b) s = .next (writeP s (decide (val s.cfg s.v[a] < val s.cfg s.v[b]))) := rfl

theorem exec_cle (a b : Reg) (s : State) :
    exec (.cle a b) s = .next (writeP s (decide (val s.cfg s.v[a] ≤ val s.cfg s.v[b]))) := rfl

theorem exec_cgt (a b : Reg) (s : State) :
    exec (.cgt a b) s = .next (writeP s (decide (val s.cfg s.v[a] > val s.cfg s.v[b]))) := rfl

theorem exec_cge (a b : Reg) (s : State) :
    exec (.cge a b) s = .next (writeP s (decide (val s.cfg s.v[a] ≥ val s.cfg s.v[b]))) := rfl

/-! The words of the family, for every choice of registers (R71, R76). -/

theorem decode_ceq : ∀ rs1 rs2 : Reg,
    decode (BitVec.ofNat 32 (0x30000000 + rs1 * 2 ^ 16 + rs2 * 2 ^ 12)) = .ok (.ceq rs1 rs2) := by
  decide +kernel

theorem decode_cne : ∀ rs1 rs2 : Reg,
    decode (BitVec.ofNat 32 (0x31000000 + rs1 * 2 ^ 16 + rs2 * 2 ^ 12)) = .ok (.cne rs1 rs2) := by
  decide +kernel

theorem decode_clt : ∀ rs1 rs2 : Reg,
    decode (BitVec.ofNat 32 (0x32000000 + rs1 * 2 ^ 16 + rs2 * 2 ^ 12)) = .ok (.clt rs1 rs2) := by
  decide +kernel

theorem decode_cle : ∀ rs1 rs2 : Reg,
    decode (BitVec.ofNat 32 (0x33000000 + rs1 * 2 ^ 16 + rs2 * 2 ^ 12)) = .ok (.cle rs1 rs2) := by
  decide +kernel

theorem decode_cgt : ∀ rs1 rs2 : Reg,
    decode (BitVec.ofNat 32 (0x34000000 + rs1 * 2 ^ 16 + rs2 * 2 ^ 12)) = .ok (.cgt rs1 rs2) := by
  decide +kernel

theorem decode_cge : ∀ rs1 rs2 : Reg,
    decode (BitVec.ofNat 32 (0x35000000 + rs1 * 2 ^ 16 + rs2 * 2 ^ 12)) = .ok (.cge rs1 rs2) := by
  decide +kernel

/-- A field below the opcode whose bits are all fixed is 0, the opcode being the one nonzero part of what a word is held
to (R72, R77). -/
theorem field_eq_zero_of_fixed {w m : Cmd} (hfix : w &&& m = BitVec.ofNat 32 (opcodeField w) <<< 24) {lo len : Nat}
    (below : lo + len ≤ 24) (fixed : ∀ k < len, m.getLsbD (lo + k) = true) : w.extractLsb' lo len = 0#len := by
  apply BitVec.eq_of_getLsbD_eq
  intro k hk
  have hbit := congrArg (·.getLsbD (lo + k)) hfix
  have hlow : lo + k < 24 := by omega
  simpa [fixed k hk, hlow, hk] using hbit

/-- Every row of the opcode map from 0x30 to 0x35 has the format SS (R72, R76). -/
theorem opcodeMap_compare_mask : ∀ row ∈ opcodeMap, 0x30 ≤ row.1 → row.1 ≤ 0x35 → row.2 = Format.ss.mask := by decide

/-- A legal word with the opcode of a compare holds 0 in `rd` and in `sh` (R72, R77, R140). -/
theorem compare_word_unused_fields {w : Cmd} (hlo : 0x30 ≤ opcodeField w) (hhi : opcodeField w ≤ 0x35)
    (hw : legalWord w = true) : w.extractLsb' 20 3 = 0#3 ∧ w.extractLsb' 0 6 = 0#6 := by
  obtain ⟨m, hrow, hfix⟩ := (legalWord_iff_lookup w).1 hw
  obtain rfl : m = Format.ss.mask := opcodeMap_compare_mask _ ((opcodeMap_lookup_eq_some_iff _ _).1 hrow) hlo hhi
  exact ⟨field_eq_zero_of_fixed hfix (by decide) (by decide), field_eq_zero_of_fixed hfix (by decide) (by decide)⟩

/-- Patterns that fit the width are equal exactly when their values are (R141). -/
theorem val_eq_val_iff {c : Config} {x y : Word} (hx : FitsWidth c x) (hy : FitsWidth c y) :
    val c x = val c y ↔ x = y :=
  ⟨val_injective c hx hy, congrArg (val c)⟩

/-- Settles O27: each command writes P alone; CEQ is bit equality because `val` is one-to-one on patterns that fit, and the
unused fields are 0 because the mask of the format fixes them. -/
theorem comparesWriteThePredicateAndNothingElse : Obligations.ComparesWriteThePredicateAndNothingElse := by
  refine ⟨fun a b s => ?_, fun w ⟨hlo, hhi⟩ hw => compare_word_unused_fields hlo hhi hw⟩
  exact ⟨⟨decode_ceq a b, _, exec_ceq a b s, writeP_predicateIn s _,
      fun ⟨fits, _⟩ => decide_eq_decide.2 (val_eq_val_iff (fits a) (fits b))⟩,
    ⟨decode_cne a b, _, exec_cne a b s, writeP_predicateIn s _⟩,
    ⟨decode_clt a b, _, exec_clt a b s, writeP_predicateIn s _⟩,
    ⟨decode_cle a b, _, exec_cle a b s, writeP_predicateIn s _⟩,
    ⟨decode_cgt a b, _, exec_cgt a b s, writeP_predicateIn s _⟩,
    ⟨decode_cge a b, _, exec_cge a b s, writeP_predicateIn s _⟩⟩

/-- Of `<`, `=` and `>` exactly one holds, counted on the truth values that the three compares leave in P (R147). -/
theorem one_order_holds (m n : ℤ) :
    (decide (m < n)).toNat + (decide (m = n)).toNat + (decide (m > n)).toNat = 1 := by
  obtain h | h | h := lt_trichotomy m n
  · simp [h, h.ne, h.le]
  · simp [h]
  · simp [h, h.ne', h.le]

/-- The reals that two integers stand for are in the integers' order, since the scale is positive (R8, R147). -/
theorem div_scale_lt_div_scale_iff (c : Config) (m n : ℤ) : (m : ℚ) / c.scale < (n : ℚ) / c.scale ↔ m < n := by
  have hscale : (0 : ℚ) < c.scale := Nat.cast_pos.2 (Nat.two_pow_pos _)
  rw [div_lt_div_iff_of_pos_right hscale, Int.cast_lt]

/-- Settles O46: the order of the integers `val` is linear, and CLT and CGT, CLE and CGE are one relation with the operands
swapped. -/
theorem exactlyOneOrderHoldsAndMatchesTheReals : Obligations.ExactlyOneOrderHoldsAndMatchesTheReals := by
  intro a b s
  refine ⟨_, _, _, _, _, _, _, _, exec_clt a b s, exec_ceq a b s, exec_cgt a b s, exec_cne a b s, exec_cle a b s,
    exec_cge a b s, exec_clt b a s, exec_cle b a s, one_order_holds _ _, decide_not, ?_, ?_, rfl, rfl, ?_⟩
  · simp only [writeP_p, le_iff_lt_or_eq, Bool.decide_or]
  · simp only [writeP_p, ge_iff_le, gt_iff_lt, le_iff_lt_or_eq, Bool.decide_or, eq_comm]
  · rw [writeP_p, decide_eq_true_iff, div_scale_lt_div_scale_iff]

end Sys2Proof.Machine
end

section
/-! PROOFS. The shifter family: SHL and SHR (spec 43_shift.md R160 to R162). -/

namespace Sys2Proof.Machine

/-- The quotient that rounds down is the floor of the rational quotient that R161 writes. -/
theorem floor_div_two_pow (n : ℤ) (k : ℕ) : ⌊(n : ℚ) / 2 ^ k⌋ = n / 2 ^ k := by
  exact_mod_cast Rat.floor_intCast_div_natCast n (2 ^ k)

theorem exec_shl (rd a : Reg) (sh : ℕ) (s : State) :
    exec (.shl rd a sh) s = .next (writeResult s rd (wrap s.cfg (s.v[a].toNat * 2 ^ sh))) := by
  rw [exec, execShl, uint]
  push_cast
  rfl

theorem exec_shr (rd a : Reg) (sh : ℕ) (s : State) :
    exec (.shr rd a sh) s = .next (writeResult s rd (wrap s.cfg (val s.cfg s.v[a] / 2 ^ sh))) := by
  rw [exec, execShr, Int.fdiv_eq_ediv_of_nonneg _ (Int.natCast_nonneg _)]
  push_cast
  rfl

/-! The words of the family, for every choice of registers and every count (R71, R74, R76). The operands are
read back by arithmetic on the word, not by running the decoder on each of a command's 4096 words. -/

/-- The fields of a word do not overlap, so that the word is their sum (R71). -/
theorem packWord_toNat {opc d a b sh : ℕ} (hopc : opc < 2 ^ 8) (hd : d < 2 ^ 3) (ha : a < 2 ^ 3) (hb : b < 2 ^ 3)
    (hsh : sh < 2 ^ 6) :
    (packWord opc d a b sh).toNat = 2 ^ 24 * opc + (2 ^ 20 * d + (2 ^ 16 * a + (2 ^ 12 * b + sh))) := by
  rw [Nat.two_pow_add_eq_or_of_lt (by omega), Nat.two_pow_add_eq_or_of_lt (by omega),
    Nat.two_pow_add_eq_or_of_lt (by omega), Nat.two_pow_add_eq_or_of_lt (by omega)]
  simp (disch := omega) only [packWord, BitVec.toNat_or, BitVec.toNat_shiftLeft, BitVec.toNat_ofNat,
    Nat.shiftLeft_eq, Nat.mod_eq_of_lt]
  ac_rfl

/-- A field of a word is a digit of its number (R71). -/
theorem extractLsb'_toNat_eq_digit (w : Cmd) (lo len : ℕ) :
    (w.extractLsb' lo len).toNat = w.toNat / 2 ^ lo % 2 ^ len := by
  rw [BitVec.extractLsb'_toNat, Nat.shiftRight_eq_div_pow]

theorem opcodeField_eq (w : Cmd) : opcodeField w = w.toNat / 2 ^ 24 % 2 ^ 8 := extractLsb'_toNat_eq_digit w 24 8

theorem rdField_val (w : Cmd) : (rdField w).val = w.toNat / 2 ^ 20 % 2 ^ 3 := extractLsb'_toNat_eq_digit w 20 3

theorem rs1Field_val (w : Cmd) : (rs1Field w).val = w.toNat / 2 ^ 16 % 2 ^ 3 := extractLsb'_toNat_eq_digit w 16 3

theorem shField_eq (w : Cmd) : shField w = w.toNat % 2 ^ 6 := by
  rw [shField, extractLsb'_toNat_eq_digit, pow_zero, Nat.div_one]

section
variable {opc sh : ℕ} (hopc : opc < 2 ^ 8) (hsh : sh < 64) (rd rs1 : Reg)
include hopc hsh

/-- A word of the format DSH is the sum that R160 and R161 write in hexadecimal digits (R71, R72). -/
theorem packWord_dsh_toNat :
    (packWord opc rd rs1 0 sh).toNat = opc * 2 ^ 24 + rd * 2 ^ 20 + rs1 * 2 ^ 16 + sh := by
  rw [packWord_toNat hopc rd.isLt rs1.isLt (by norm_num) hsh]
  ring

theorem ofNat_eq_packWord_dsh :
    BitVec.ofNat 32 (opc * 2 ^ 24 + rd * 2 ^ 20 + rs1 * 2 ^ 16 + sh) = packWord opc rd rs1 0 sh := by
  rw [← packWord_dsh_toNat hopc hsh, BitVec.ofNat_toNat, BitVec.setWidth_eq]

theorem opcodeField_packWord_dsh : opcodeField (packWord opc rd rs1 0 sh) = opc := by
  rw [opcodeField_eq, packWord_dsh_toNat hopc hsh]
  omega

theorem rdField_packWord_dsh : rdField (packWord opc rd rs1 0 sh) = rd := by
  apply Fin.ext
  rw [rdField_val, packWord_dsh_toNat hopc hsh]
  omega

theorem rs1Field_packWord_dsh : rs1Field (packWord opc rd rs1 0 sh) = rs1 := by
  apply Fin.ext
  rw [rs1Field_val, packWord_dsh_toNat hopc hsh]
  omega

theorem shField_packWord_dsh : shField (packWord opc rd rs1 0 sh) = sh := by
  rw [shField_eq, packWord_dsh_toNat hopc hsh]
  omega

end

/-- A command whose word selects its own row is decoded from its word (R77). -/
theorem decode_encode_of_rowOf {i : Instr} (hwf : i.wf = true) (hfix : Laws.EncodesInRow.Statement i)
    (hrow : rowOf (encode i) = some (i.format, i)) : decode (encode i) = .ok i := by
  obtain ⟨hmask, hopc⟩ := hfix hwf
  simp [decode, hrow, hmask, hopc]

theorem decode_shl (rd rs1 : Reg) {sh : ℕ} (hsh : sh < 64) :
    decode (BitVec.ofNat 32 (0x18000000 + rd * 2 ^ 20 + rs1 * 2 ^ 16 + sh)) = .ok (.shl rd rs1 sh) := by
  have hopc : 0x18 < 2 ^ 8 := by norm_num
  rw [show 0x18000000 = 0x18 * 2 ^ 24 by norm_num, ofNat_eq_packWord_dsh hopc hsh]
  apply decode_encode_of_rowOf (i := .shl rd rs1 sh) (decide_eq_true hsh) (Laws.EncodesInRow.shl rd rs1 sh)
  simp only [rowOf, encode, Instr.opcode, Instr.format, opcodeField_packWord_dsh hopc hsh,
    rdField_packWord_dsh hopc hsh, rs1Field_packWord_dsh hopc hsh, shField_packWord_dsh hopc hsh]

theorem decode_shr (rd rs1 : Reg) {sh : ℕ} (hsh : sh < 64) :
    decode (BitVec.ofNat 32 (0x19000000 + rd * 2 ^ 20 + rs1 * 2 ^ 16 + sh)) = .ok (.shr rd rs1 sh) := by
  have hopc : 0x19 < 2 ^ 8 := by norm_num
  rw [show 0x19000000 = 0x19 * 2 ^ 24 by norm_num, ofNat_eq_packWord_dsh hopc hsh]
  apply decode_encode_of_rowOf (i := .shr rd rs1 sh) (decide_eq_true hsh) (Laws.EncodesInRow.shr rd rs1 sh)
  simp only [rowOf, encode, Instr.opcode, Instr.format, opcodeField_packWord_dsh hopc hsh,
    rdField_packWord_dsh hopc hsh, rs1Field_packWord_dsh hopc hsh, shField_packWord_dsh hopc hsh]

/-- A count of `W` or more shifts every bit out: the product is a multiple of `2^W` (R160). -/
theorem wrap_mul_two_pow_of_le {c : Config} {sh : ℕ} (long : c.bits ≤ sh) (n : ℤ) : wrap c (n * 2 ^ sh) = 0#64 := by
  have multiple : (2 : ℤ) ^ c.bits ∣ n * 2 ^ sh := Dvd.dvd.mul_left (pow_dvd_pow 2 long) n
  rw [← wrap_zero c]
  exact wrap_eq_of_emod_eq c (by rw [Int.emod_eq_zero_of_dvd multiple, Int.zero_emod])

/-- Settles O28: `wrap` takes the product modulo `2^W`, and a long count makes the product a multiple of `2^W`. -/
theorem shlMultipliesModuloTheWidth : Obligations.ShlMultipliesModuloTheWidth := by
  intro rd rs1 sh s hsh
  obtain ⟨result, status⟩ := writeResult_resultIn s rd (wrap s.cfg (s.v[rs1].toNat * 2 ^ sh))
  exact ⟨decode_shl rd rs1 hsh, _, _, exec_shl rd rs1 sh s, result, status,
    by exact_mod_cast wrap_toNat s.cfg (s.v[rs1].toNat * 2 ^ sh), fun long => wrap_mul_two_pow_of_le long _⟩

/-- Settles O29: SHR's integer quotient is the floor of the rational one. -/
theorem shrFloorsTheValue : Obligations.ShrFloorsTheValue := by
  intro rd rs1 sh s hsh
  obtain ⟨result, status⟩ := writeResult_resultIn s rd (wrap s.cfg (val s.cfg s.v[rs1] / 2 ^ sh))
  exact ⟨decode_shr rd rs1 hsh, _, _, exec_shr rd rs1 sh s, result, status,
    by rw [wrap_toNat, floor_div_two_pow]⟩

/-- The sign bit of a pattern that fits tells whether it reads, signed, below zero (R13). -/
theorem sint_neg_iff {c : Config} {x : Word} (h : FitsWidth c x) : sint c x < 0 ↔ x.getLsbD (c.bits - 1) = true := by
  obtain ⟨nonneg, lt⟩ := uint_bounds h
  rw [sint_eq_ite_sign_bit]
  split
  case isTrue hb => exact iff_of_true (by omega) hb
  case isFalse hb => exact iff_of_false (by omega) hb

/-- From `W - 1` on, a signed shift right leaves the sign: -1 or 0 (R161). -/
theorem sint_div_two_pow_of_le {c : Config} {x : Word} (h : FitsWidth c x) {sh : ℕ} (long : c.bits - 1 ≤ sh) :
    sint c x / 2 ^ sh = if x.getLsbD (c.bits - 1) then -1 else 0 := by
  obtain ⟨lower, upper⟩ := sint_bounds h
  have range_le : (2 : ℤ) ^ (c.bits - 1) ≤ 2 ^ sh := pow_le_pow_right₀ (by norm_num) long
  split
  case isTrue hb => exact Int.ediv_eq_neg_one_of_neg_of_le ((sint_neg_iff h).2 hb) (by omega)
  case isFalse hb => exact Int.ediv_eq_zero_of_lt (not_lt.1 (mt (sint_neg_iff h).1 hb)) (by omega)

/-- From `W` on, an unsigned shift right leaves nothing (R161). -/
theorem uint_div_two_pow_of_le {c : Config} {x : Word} (h : FitsWidth c x) {sh : ℕ} (long : c.bits ≤ sh) :
    uint x / 2 ^ sh = 0 := by
  obtain ⟨nonneg, lt⟩ := uint_bounds h
  exact Int.ediv_eq_zero_of_lt nonneg (lt.trans_le (pow_le_pow_right₀ (by norm_num) long))

/-- Settles O30: the quotient is -1 or 0, and `wrap(-1)` is all ones. -/
theorem longShiftsRightLeaveTheSign : Obligations.LongShiftsRightLeaveTheSign := by
  rintro rd rs1 sh s ⟨fits, -⟩
  refine ⟨_, exec_shr rd rs1 sh s, fun signed long => ?_, fun unsigned long => ?_⟩
  · rw [writeResult_v_same, val, if_pos signed, sint_div_two_pow_of_le (fits rs1) long]
    split
    · exact wrap_neg_one_toNat s.cfg
    · rw [wrap_zero, BitVec.toNat_zero]
  · rw [writeResult_v_same, val, if_neg (by simp [unsigned]), uint_div_two_pow_of_le (fits rs1) long, wrap_zero]

/-- Settles O47: doubling is adding to itself before `wrap` is taken, and SHR by 1 floors the half. -/
theorem shiftsScaleByTwo : Obligations.ShiftsScaleByTwo := by
  intro rd a s
  refine ⟨⟨_, exec_shl rd a 1 s, ?_⟩, _, exec_shr rd a 1 s, ?_⟩
  · rw [add_adds a rd a s, pow_one, mul_two]
  · rw [writeResult_v_same, ← floor_div_two_pow, pow_one]

end Sys2Proof.Machine
end

section
/-! PROOFS. The multiplier and divider: MUL and DIV (spec 44_muldiv.md R180 to R182). -/

namespace Sys2Proof.Machine

/-- The definition's scale `2^F` is a natural number; here it is an integer (R8). -/
theorem scale_cast (c : Config) : (c.scale : ℤ) = 2 ^ c.fbits := by
  rw [Config.scale]
  push_cast
  rfl

/-- What MUL answers, with the library's truncating quotient (R14, R180). -/
theorem exec_mul (rd a b : Reg) (s : State) :
    exec (.mul rd a b) s =
      .next (writeResult s rd (wrap s.cfg ((val s.cfg s.v[a] * val s.cfg s.v[b]).tdiv (2 ^ s.cfg.fbits)))) := by
  rw [exec, execMul, tdiv_eq_tdiv, scale_cast]

/-- What DIV by a nonzero divisor answers, with the library's truncating quotient (R14, R181). -/
theorem exec_div_of_ne_zero (rd a b : Reg) (s : State) (h : val s.cfg s.v[b] ≠ 0) :
    exec (.div rd a b) s =
      .next (writeResult s rd (wrap s.cfg ((val s.cfg s.v[a] * 2 ^ s.cfg.fbits).tdiv (val s.cfg s.v[b])))) := by
  rw [exec_div_nonzero rd a b s h, tdiv_eq_tdiv, scale_cast]

/-! The words of the family, for every choice of registers (R71, R76). -/

theorem decode_mul : ∀ rd rs1 rs2 : Reg,
    decode (BitVec.ofNat 32 (0x20000000 + rd * 2 ^ 20 + rs1 * 2 ^ 16 + rs2 * 2 ^ 12)) = .ok (.mul rd rs1 rs2) := by
  decide +kernel

theorem decode_div : ∀ rd rs1 rs2 : Reg,
    decode (BitVec.ofNat 32 (0x21000000 + rd * 2 ^ 20 + rs1 * 2 ^ 16 + rs2 * 2 ^ 12)) = .ok (.div rd rs1 rs2) := by
  decide +kernel

/-- Settles O31: `wrap` takes the truncated quotient modulo `2^W`. -/
theorem mulRescalesAndTruncatesTowardZero : Obligations.MulRescalesAndTruncatesTowardZero := by
  intro rd rs1 rs2 s
  obtain ⟨result, status⟩ := writeResult_resultIn s rd
    (wrap s.cfg ((val s.cfg s.v[rs1] * val s.cfg s.v[rs2]).tdiv (2 ^ s.cfg.fbits)))
  exact ⟨decode_mul rd rs1 rs2, _, _, exec_mul rd rs1 rs2 s, result, status, wrap_toNat ..⟩

/-- Settles O32: a zero divisor gives `wrap(-1)`, which is all ones, and the DZ event; a nonzero one the wrapped quotient. -/
theorem divRescalesAndTruncatesTowardZero : Obligations.DivRescalesAndTruncatesTowardZero := by
  intro rd rs1 rs2 s
  refine ⟨decode_div rd rs1 rs2, ?_⟩
  by_cases h0 : val s.cfg s.v[rs2] = 0
  · exact ⟨_, _, exec_div_zero rd rs1 rs2 s h0, (writeResult_resultIn ..).1,
      fun _ => ⟨wrap_neg_one_toNat s.cfg, rfl⟩, fun nonzero => absurd h0 nonzero⟩
  · obtain ⟨result, status⟩ := writeResult_resultIn s rd
      (wrap s.cfg ((val s.cfg s.v[rs1] * 2 ^ s.cfg.fbits).tdiv (val s.cfg s.v[rs2])))
    exact ⟨_, _, exec_div_of_ne_zero rd rs1 rs2 s h0, result, fun zero => absurd zero h0,
      fun _ => ⟨status, wrap_toNat ..⟩⟩

/-- A number in the nonnegative range of the storage type is read back from its pattern (R13). -/
theorem val_wrap_of_lt {c : Config} {n : ℕ} (h : n < if c.signed then 2 ^ (c.bits - 1) else 2 ^ c.bits) :
    val c (wrap c n) = n := by
  have half := two_pow_bits_half c
  have toNat_eq : (wrap c n).toNat = n := by
    have lt : n < 2 ^ c.bits := by split at h <;> omega
    zify
    rw [wrap_toNat, Int.emod_eq_of_lt (Int.natCast_nonneg n) (mod_cast lt)]
  rw [val]
  split at h
  case isTrue signed => rw [if_pos signed, sint_eq c (wrap_fits c n), toNat_eq, if_neg (not_le.2 h)]
  case isFalse unsigned => rw [if_neg unsigned, uint, toNat_eq]

/-- Where `2^F` is a value of the storage type, the pattern of 1.0 reads as `2^F` (R182). -/
theorem val_wrap_two_pow_fbits {c : Config} (h : if c.signed then c.fbits < c.bits - 1 else c.fbits < c.bits) :
    val c (wrap c (2 ^ c.fbits)) = 2 ^ c.fbits := by
  have two_pow_lt : 2 ^ c.fbits < if c.signed then 2 ^ (c.bits - 1) else 2 ^ c.bits := by
    split_ifs at h ⊢ <;> exact Nat.pow_lt_pow_right one_lt_two h
  exact_mod_cast val_wrap_of_lt two_pow_lt

/-- Settles O48: 1.0 reads as `2^F`, so that in all three commands the rescaling cancels before the quotient is truncated. -/
theorem mulAndDivByOneAreIdentities : Obligations.MulAndDivByOneAreIdentities := by
  rintro rd a o s ⟨fits, -⟩ fraction one
  have one_val : val s.cfg s.v[o] = 2 ^ s.cfg.fbits := by rw [one, val_wrap_two_pow_fbits fraction]
  have one_ne_zero : val s.cfg s.v[o] ≠ 0 := by rw [one_val]; positivity
  have rescaled : wrap s.cfg ((val s.cfg s.v[a] * 2 ^ s.cfg.fbits).tdiv (2 ^ s.cfg.fbits)) = s.v[a] := by
    rw [Int.mul_tdiv_cancel _ (by positivity), wrap_val s.cfg (fits a)]
  refine ⟨⟨_, exec_mul rd a o s, ?_⟩, ⟨_, exec_mul rd o a s, ?_⟩, _, exec_div_of_ne_zero rd a o s one_ne_zero, ?_⟩
  · rw [writeResult_v_same, one_val, rescaled]
  · rw [writeResult_v_same, one_val, mul_comm, rescaled]
  · rw [writeResult_v_same, one_val, rescaled]

end Sys2Proof.Machine
end

section
/-! PROOFS. The copy, transfer and control commands: NOP, MOV, LDRAW, RD and CLRST (spec 45_interface.md R200 to R204). -/

namespace Sys2Proof.Machine

/-! What each command answers; MOV's equation, `exec_mov`, stands with the adder family. -/

theorem exec_nop (s : State) : exec .nop s = .next s := rfl

theorem exec_ldraw (rd : Reg) (s : State) : exec (.ldraw rd) s = .next (writeResult s rd (dataRaw s)) := rfl

theorem exec_rd (a : Reg) (s : State) : exec (.rd a) s = .next (writeRes s s.v[a]) := rfl

theorem exec_clrst (s : State) : exec .clrst s = .next (clearStatus s) := rfl

/-! The words of the family, for every choice of registers (R71, R76). -/

theorem decode_nop : decode 0x00000000#32 = .ok .nop := by decide

theorem decode_mov : ∀ rd rs1 : Reg,
    decode (BitVec.ofNat 32 (0x02000000 + rd * 2 ^ 20 + rs1 * 2 ^ 16)) = .ok (.mov rd rs1) := by
  decide +kernel

theorem decode_ldraw : ∀ rd : Reg, decode (BitVec.ofNat 32 (0x05000000 + rd * 2 ^ 20)) = .ok (.ldraw rd) := by
  decide +kernel

theorem decode_rd : ∀ rs1 : Reg, decode (BitVec.ofNat 32 (0x06000000 + rs1 * 2 ^ 16)) = .ok (.rd rs1) := by
  decide +kernel

theorem decode_clrst : decode 0x07000000#32 = .ok .clrst := by decide

/-- The format N fixes every bit, so that a row which has it makes one word legal (R72, R77). -/
theorem legalWord_eq_false_of_format_n {w : Cmd} {opc : ℕ} (hopc : opcodeField w = opc)
    (row : (opc, Format.n.mask) ∈ opcodeMap) (other : w ≠ BitVec.ofNat 32 opc <<< 24) : legalWord w = false := by
  subst hopc
  rw [← Bool.not_eq_true]
  intro legal
  obtain ⟨m, hm, hfix⟩ := (legalWord_iff_lookup w).1 legal
  rw [(opcodeMap_lookup_eq_some_iff _ _).2 row] at hm
  cases hm
  have mask_all : Format.n.mask = BitVec.allOnes 32 := by decide
  rw [mask_all, BitVec.and_allOnes] at hfix
  exact other hfix

/-- Taking an event sets its own bit and keeps the others (R25, R221). -/
theorem flagSet_setFlag (status : BitVec 3) (e e' : Event) :
    flagSet (setFlag status e) e' = true ↔ e' = e ∨ flagSet status e' = true := by
  have own_bit : (1#3 <<< e.code).getLsbD e'.code = true ↔ e' = e := by
    cases e <;> cases e' <;> decide
  rw [setFlag, flagSet, flagSet, BitVec.getLsbD_or, Bool.or_eq_true, own_bit, or_comm]

/-- A conversion keeps STATUS or takes the NV event (R102, R103). -/
theorem writeConversion_status (s : State) (rd : Reg) (x : FpValue) :
    (writeConversion s rd x).status = s.status ∨ (writeConversion s rd x).status = setFlag s.status .nv := by
  obtain ⟨-, hstatus⟩ := writeConversion_resultIn s rd x
  rw [hstatus]
  split
  · exact .inr rfl
  · exact .inl rfl

/-- What a command can do to STATUS: CLRST clears it, DIV may take the DZ event and a conversion the NV event, and in every
other case it is kept (R204, R221, R222). -/
theorem exec_status {i : Instr} {s t : State} (h : exec i s = .next t) :
    (i = .clrst ∧ t.status = 0b000#3) ∨ (i ≠ .clrst ∧ t.status = s.status) ∨
      ((∃ rd a b, i = .div rd a b) ∧ t.status = setFlag s.status .dz) ∨
      ((∃ rd, i = .cvts rd ∨ i = .cvtd rd) ∧ t.status = setFlag s.status .nv) := by
  cases i with
  | clrst => cases h; exact .inl ⟨rfl, rfl⟩
  | div rd a b =>
    by_cases h0 : val s.cfg s.v[b] = 0
    · rw [exec_div_zero rd a b s h0] at h; cases h
      exact .inr (.inr (.inl ⟨⟨rd, a, b, rfl⟩, rfl⟩))
    · rw [exec_div_nonzero rd a b s h0] at h; cases h
      exact .inr (.inl ⟨nofun, rfl⟩)
  | cvts rd | cvtd rd =>
    cases h
    obtain kept | raised := writeConversion_status s rd _
    · exact .inr (.inl ⟨nofun, kept⟩)
    · exact .inr (.inr (.inr ⟨⟨rd, by simp⟩, raised⟩))
  | _ => cases h; exact .inr (.inl ⟨nofun, rfl⟩)

/-- A status bit outlives every command but CLRST (R204, R226). -/
theorem exec_keeps_flag {i : Instr} {s t : State} {e : Event} (h : exec i s = .next t) (hi : i ≠ .clrst)
    (set : flagSet s.status e = true) : flagSet t.status e = true := by
  obtain ⟨clears, -⟩ | ⟨-, kept⟩ | ⟨-, raised⟩ | ⟨-, raised⟩ := exec_status h
  · exact absurd clears hi
  · rwa [kept]
  · rw [raised]; exact (flagSet_setFlag ..).2 (.inr set)
  · rw [raised]; exact (flagSet_setFlag ..).2 (.inr set)

/-- Settles O35: LDRAW writes its operand as the result, and the operand is DATA modulo `2^W`. -/
theorem ldrawLoadsTheLowBitsOfData : Obligations.LdrawLoadsTheLowBitsOfData := by
  intro rd s
  obtain ⟨result, status⟩ := writeResult_resultIn s rd (dataRaw s)
  exact ⟨decode_ldraw rd, _, _, exec_ldraw rd s, result, status, dataRaw_toNat s⟩

/-- Settles O36: that no other command without a destination writes RES is part of what R28 says of RES. -/
theorem rdDrivesTheRegisterOntoRes : Obligations.RdDrivesTheRegisterOntoRes := by
  refine ⟨fun rs1 s => ⟨decode_rd rs1, _, exec_rd rs1 s, rfl, fun _ => rfl, rfl, rfl, sameOutside_refl s⟩,
    fun i s t h changed hd => ?_⟩
  obtain ⟨written, -⟩ := resFollowsTheWrittenRegister
  obtain ⟨-, -, res_kept⟩ := written i s t h
  by_contra not_rd
  exact changed (res_kept hd fun rs1 hi => not_rd ⟨rs1, hi⟩)

/-- Settles O37: CLRST's word has no unused bit, every other command keeps a set bit, and ILL is taken in every state. -/
theorem clrstClearsTheStatus : Obligations.ClrstClearsTheStatus := by
  refine ⟨fun s => ⟨_, exec_clrst s, rfl, fun _ => rfl, rfl, rfl, sameOutside_refl s⟩,
    ⟨decode_clrst, fun w hopc other => legalWord_eq_false_of_format_n hopc (by decide) other⟩,
    fun i s t e h set cleared => ?_, fun s t w _ illegal => ?_⟩
  · by_contra hi
    rw [exec_keeps_flag h hi set] at cleared
    cases cleared
  · exact ⟨_, runWord_of_illegal illegal t, (flagSet_setFlag t.status .ill .ill).2 (.inl rfl)⟩

/-- Settles O33: NOP's word, too, has no unused bit. -/
theorem nopChangesNothing : Obligations.NopChangesNothing :=
  ⟨exec_nop, decode_nop, fun _ hopc other => legalWord_eq_false_of_format_n hopc (by decide) other⟩

/-- Settles O34: MOV writes `V[rs1]` as the result and does nothing else. -/
theorem movCopiesTheRegister : Obligations.MovCopiesTheRegister := fun rd rs1 s =>
  ⟨decode_mov rd rs1, _, exec_mov rd rs1 s, writeResult_resultIn s rd s.v[rs1]⟩

end Sys2Proof.Machine
end

section
/-! PROOFS. The status events, and how long a status bit lasts (spec 60_exceptions.md R220 to R226). -/

namespace Sys2Proof.Machine

/-- A conversion of a finite input keeps STATUS and P, in range or not (R220). -/
theorem writeConversion_real_silent (s : State) (rd : Reg) (x : ℚ) :
    (writeConversion s rd (.real x)).status = s.status ∧ (writeConversion s rd (.real x)).p = s.p := by
  obtain ⟨⟨-, -, -, hp, -⟩, hstatus⟩ := writeConversion_real s rd x
  exact ⟨hstatus, hp⟩

/-- Settles O7: the listed commands write a result and nothing else; a DIV by a nonzero divisor and a conversion of a finite
input are the branches without an event. -/
theorem everyCommandFinishesAndWrapsSilently : Obligations.EveryCommandFinishesAndWrapsSilently := by
  refine ⟨step_total, fun i s => ?_⟩
  obtain ⟨t, h, -⟩ := exec_total i s
  refine ⟨t, h, ?_⟩
  rintro (⟨rd, a, b, rfl | rfl | rfl | ⟨rfl, nonzero⟩⟩ | ⟨rd, a, rfl | rfl⟩ | ⟨rd, a, sh, rfl⟩ |
    ⟨rd, x, ⟨rfl, finite⟩ | ⟨rfl, finite⟩⟩)
  case inl.inr.inr.inr => rw [exec_div_nonzero rd a b s nonzero] at h; cases h; exact ⟨rfl, rfl⟩
  case inr.inr.inr.inl => rw [exec_cvts, finite] at h; cases h; exact writeConversion_real_silent s rd x
  case inr.inr.inr.inr => rw [exec_cvtd, finite] at h; cases h; exact writeConversion_real_silent s rd x
  all_goals cases h; exact ⟨rfl, rfl⟩

/-- Settles O8: each event is one bit or-ed into STATUS; the other two come with the result `wrap(-1)` or 0. -/
theorem statusEventsHaveTheirEffects : Obligations.StatusEventsHaveTheirEffects :=
  ⟨fun _ s illegal => runWord_of_illegal illegal s,
    fun rd a b s zero => ⟨_, _, exec_div_zero rd a b s zero, (writeResult_resultIn ..).1, wrap_neg_one_toNat s.cfg, rfl⟩,
    fun rd s invalid => ⟨_, exec_cvts rd s, writeConversion_not_real s rd invalid⟩,
    fun rd s invalid => ⟨_, exec_cvtd rd s, writeConversion_not_real s rd invalid⟩⟩

/-- Settles O9, from what each command can do to STATUS. -/
theorem noOtherCommandSetsAStatusBit : Obligations.NoOtherCommandSetsAStatusBit := by
  intro i s t h
  obtain ⟨clears, cleared⟩ | ⟨keeps, kept⟩ | ⟨⟨rd, a, b, rfl⟩, -⟩ | ⟨⟨rd, rfl | rfl⟩, -⟩ := exec_status h
  · exact ⟨fun _ => cleared, fun other => absurd clears other⟩
  · exact ⟨fun clears => absurd clears keeps, fun _ _ _ _ => kept⟩
  · exact ⟨nofun, fun _ not_div => absurd rfl (not_div rd a b)⟩
  · exact ⟨nofun, fun _ _ not_cvts _ => absurd rfl (not_cvts rd)⟩
  · exact ⟨nofun, fun _ _ _ not_cvtd => absurd rfl (not_cvtd rd)⟩

/-- The words that can raise an event: ILL an illegal word, DZ a DIV, NV a CVTS or a CVTD (R221). -/
def CanRaise (w : Cmd) : Event → Prop
  | .ill => legalWord w = false
  | .dz => ∃ rd a b, decode w = .ok (.div rd a b)
  | .nv => ∃ rd, decode w = .ok (.cvts rd) ∨ decode w = .ok (.cvtd rd)

/-- What a command word can do to STATUS: CLRST clears it, and every other word keeps it or takes one event, of a kind that
the word can raise (R204, R221, R224). -/
theorem runWord_status {w : Cmd} {s t : State} (h : runWord w s = .next t) :
    (decode w = .ok .clrst ∧ t.status = 0b000#3) ∨
      (decode w ≠ .ok .clrst ∧ (t.status = s.status ∨ ∃ e, CanRaise w e ∧ t.status = setFlag s.status e)) := by
  obtain ⟨i, hw, he⟩ | ⟨⟨e, hw⟩, he⟩ := runWord_cases w s <;> rw [he] at h <;> rw [hw]
  · obtain ⟨rfl, cleared⟩ | ⟨keeps, kept⟩ | ⟨⟨rd, a, b, rfl⟩, raised⟩ | ⟨⟨rd, rfl | rfl⟩, raised⟩ := exec_status h
    · exact .inl ⟨rfl, cleared⟩
    · exact .inr ⟨fun clears => keeps (Except.ok.inj clears), .inl kept⟩
    · exact .inr ⟨nofun, .inr ⟨.dz, ⟨rd, a, b, hw⟩, raised⟩⟩
    · exact .inr ⟨nofun, .inr ⟨.nv, ⟨rd, .inl hw⟩, raised⟩⟩
    · exact .inr ⟨nofun, .inr ⟨.nv, ⟨rd, .inr hw⟩, raised⟩⟩
  · cases h
    exact .inr ⟨nofun, .inr ⟨.ill, by rw [CanRaise, legalWord, hw], rfl⟩⟩

/-- A bit that a word sets is the one event the word takes (R224). -/
theorem runWord_sets_flag {w : Cmd} {s t : State} {e : Event} (h : runWord w s = .next t)
    (clear : flagSet s.status e = false) (set : flagSet t.status e = true) :
    CanRaise w e ∧ t.status = setFlag s.status e := by
  obtain ⟨-, cleared⟩ | ⟨-, kept | ⟨e', can, raised⟩⟩ := runWord_status h
  · rw [cleared, flagSet, BitVec.getLsbD_zero] at set; cases set
  · rw [kept, clear] at set; cases set
  · obtain rfl | already := (flagSet_setFlag ..).1 (raised ▸ set)
    · exact ⟨can, raised⟩
    · rw [clear] at already; cases already

/-- A status bit outlives every word but CLRST's (R226). -/
theorem runWord_keeps_flag {w : Cmd} {s t : State} {e : Event} (h : runWord w s = .next t)
    (hw : decode w ≠ .ok .clrst) (set : flagSet s.status e = true) : flagSet t.status e = true := by
  obtain ⟨clears, -⟩ | ⟨-, kept | ⟨e', -, raised⟩⟩ := runWord_status h
  · exact absurd clears hw
  · rwa [kept]
  · rw [raised]; exact (flagSet_setFlag ..).2 (.inr set)

/-- Settles O10: a word that sets a bit takes that bit's event and no other. -/
theorem atMostOneEventPerCommand : Obligations.AtMostOneEventPerCommand := by
  intro w s t h
  refine ⟨fun e e' clear set clear' set' => ?_, fun clear set => (runWord_sets_flag h clear set).1,
    fun clear set => (runWord_sets_flag h clear set).1, fun clear set => (runWord_sets_flag h clear set).1⟩
  obtain ⟨-, raised⟩ := runWord_sets_flag h clear set
  obtain same | already := (flagSet_setFlag ..).1 (raised ▸ set')
  · exact same.symm
  · rw [clear'] at already; cases already

/-- What an edge does, by the word that completes at it: a reset edge resets, a completion edge runs its word as one step,
and any other edge keeps the architectural state and leaves `done` 0 (R240, R243). -/
theorem step_completing {s t : State} (h : step s = .next t) :
    ((portIn s).rst = true ∧ t = resetEdge (takeSample s)) ∨
      ((portIn s).rst = false ∧
        ∃ w d, completing s = some w ∧ runWord w (finish { takeSample s with data := d }) = .next t) ∨
      ((portIn s).rst = false ∧ completing s = none ∧ t.arch = s.arch ∧ t.done = false) := by
  obtain ⟨hr, hs⟩ | ⟨hr, f, hf, hl, hs⟩ | ⟨hr, f, hf, hl, hs⟩ | ⟨ha, hl, hs⟩ | ⟨ha, hl, hs⟩ | ⟨hr, hf, ha, hs⟩ :=
    step_cases s <;> rw [hs] at h
  · cases h; exact .inl ⟨hr, rfl⟩
  · exact .inr (.inl ⟨hr, f.cmd, s.data, by simp [completing, hr, hf, hl], h⟩)
  · cases h; exact .inr (.inr ⟨hr, by simp [completing, hr, hf, hl], rfl, rfl⟩)
  · obtain ⟨hr, -, -, hf⟩ := (accepts_iff s).1 ha
    exact .inr (.inl ⟨hr, (portIn s).cmd, (portIn s).data, by simp [completing, hr, hf, ha, hl], h⟩)
  · obtain ⟨hr, -, -, hf⟩ := (accepts_iff s).1 ha
    cases h; exact .inr (.inr ⟨hr, by simp [completing, hr, hf, hl.ne'], rfl, rfl⟩)
  · cases h; exact .inr (.inr ⟨hr, by simp [completing, hr, hf, ha], rfl, rfl⟩)

/-- Settles O11: STATUS changes only by reset or by the word that completes, and of the words only CLRST's clears a bit. -/
theorem statusBitsAreStickyUntilClrstOrReset : Obligations.StatusBitsAreStickyUntilClrstOrReset := by
  intro s t e h
  obtain ⟨hr, rfl⟩ | ⟨hr, w, d, hc, hrun⟩ | ⟨hr, hc, harch, -⟩ := step_completing h
  · exact ⟨fun _ => rfl, fun _ => .inr (.inl hr)⟩
  · by_cases hw : decode w = .ok .clrst
    · obtain ⟨-, cleared⟩ | ⟨other, -⟩ := runWord_status hrun
      · exact ⟨fun _ => cleared, fun _ => .inr (.inr ⟨w, hc, hw⟩)⟩
      · exact absurd hw other
    · refine ⟨?_, fun set => .inl (runWord_keeps_flag hrun hw set)⟩
      simp [hr, hc, hw]
  · have kept : t.status = s.status := congrArg Arch.status harch
    refine ⟨?_, fun set => .inl (kept ▸ set)⟩
    simp [hr, hc]

end Sys2Proof.Machine
end

section
/-! PROOFS. Reset: what the ports show while `rst = 1`, and what an edge that samples it leaves (spec
70_reset_and_hazards.md R240). -/

namespace Sys2Proof.Machine

/-- A sampled reset decides the edge, whatever is in flight or presented. -/
theorem step_of_rst {s : State} (hr : (portIn s).rst = true) : step s = .next (resetEdge (takeSample s)) := if_pos hr

theorem outputs_cmdReady_of_rst {s : State} (hr : (portIn s).rst = true) : (outputs s).cmdReady = false := by
  simp [outputs, hr]

theorem outputs_done_of_rst {s : State} (hr : (portIn s).rst = true) : (outputs s).done = false := by
  simp [outputs, hr]

theorem accepts_of_rst {s : State} (hr : (portIn s).rst = true) : accepts s = false := by
  simp [accepts, hr]

/-- A reset reads nothing but the parameters, which it keeps, so that a second one only takes its sample. -/
theorem resetEdge_takeSample_resetEdge (s : State) :
    resetEdge (takeSample (resetEdge s)) = { resetEdge s with inputs := (resetEdge s).inputs.tail } := rfl

/-- Settles O5: whatever the state holds, the edge leaves the reset values, and resetting those again changes nothing. -/
theorem resetEdgeAbandonsEverything : Obligations.ResetEdgeAbandonsEverything := by
  intro s hr
  refine ⟨outputs_cmdReady_of_rst hr, outputs_done_of_rst hr, accepts_of_rst hr,
    resetEdge (takeSample s), step_of_rst hr, fun k => ?_, rfl, rfl, rfl, rfl, rfl, rfl, rfl, fun hr' => ?_⟩
  · rw [resetEdge_v]; exact Vector.getElem_replicate _
  · rw [step_of_rst hr', resetEdge_takeSample_resetEdge]

end Sys2Proof.Machine
end

section
/-! PROOFS. The decoder and the encoder are inverse to one another, and the three kinds of illegal word (spec
30_encoding.md R70 to R78). -/

namespace Sys2Proof.Machine

/-! What `decode` answers, by the row of the word's opcode and the tests on the word. -/

theorem decode_of_rowOf_none {w : Cmd} (hrow : rowOf w = none) : decode w = .error .reservedOpcode := by
  rw [decode, hrow]

theorem decode_of_rowOf_some {w : Cmd} {f : Format} {i : Instr} (hrow : rowOf w = some (f, i)) :
    decode w =
      if w &&& f.mask = BitVec.ofNat 32 (opcodeField w) <<< 24 then .ok i
      else if w &&& reservedBits = 0#32 then .error .unusedField
      else .error .reservedBit := by
  rw [decode, hrow]

/-- R77: a word is a command when its opcode's row names the command and its fixed bits are the row's. -/
theorem decode_eq_ok_iff (w : Cmd) (i : Instr) :
    decode w = .ok i ↔ ∃ f, rowOf w = some (f, i) ∧ w &&& f.mask = BitVec.ofNat 32 (opcodeField w) <<< 24 := by
  cases hrow : rowOf w with
  | none => simp [decode_of_rowOf_none hrow]
  | some row =>
    obtain ⟨f, j⟩ := row
    rw [decode_of_rowOf_some hrow]
    by_cases hfix : w &&& f.mask = BitVec.ofNat 32 (opcodeField w) <<< 24
    · simp [hfix]
    · by_cases hres : w &&& reservedBits = 0#32 <;> simp [hfix, hres]

/-! The operands of a packed word, read back (R71, R73, R74). -/

section
variable {opc d a b sh : ℕ} (hopc : opc < 2 ^ 8) (hd : d < 2 ^ 3) (ha : a < 2 ^ 3) (hb : b < 2 ^ 3) (hsh : sh < 2 ^ 6)
include hopc hd ha hb hsh

theorem rdField_packWord_val : (rdField (packWord opc d a b sh)).val = d := by
  rw [rdField_val, packWord_toNat hopc hd ha hb hsh]
  omega

theorem rs1Field_packWord_val : (rs1Field (packWord opc d a b sh)).val = a := by
  rw [rs1Field_val, packWord_toNat hopc hd ha hb hsh]
  omega

theorem rs2Field_packWord_val : (rs2Field (packWord opc d a b sh)).val = b := by
  rw [rs2Field, BitVec.val_toFin, extractLsb'_toNat_eq_digit, packWord_toNat hopc hd ha hb hsh]
  omega

theorem shField_packWord : shField (packWord opc d a b sh) = sh := by
  rw [shField_eq, packWord_toNat hopc hd ha hb hsh]
  omega

end

/-- The lemmas of the constructors, together: every well-formed command's word lies in its row (R72, R77). -/
theorem encodesInRow : ∀ i : Instr, Laws.EncodesInRow.Statement i
  | .nop => Laws.EncodesInRow.nop
  | .zero rd => Laws.EncodesInRow.zero rd
  | .mov rd rs1 => Laws.EncodesInRow.mov rd rs1
  | .cvts rd => Laws.EncodesInRow.cvts rd
  | .cvtd rd => Laws.EncodesInRow.cvtd rd
  | .ldraw rd => Laws.EncodesInRow.ldraw rd
  | .rd rs1 => Laws.EncodesInRow.rd rs1
  | .clrst => Laws.EncodesInRow.clrst
  | .add rd rs1 rs2 => Laws.EncodesInRow.add rd rs1 rs2
  | .sub rd rs1 rs2 => Laws.EncodesInRow.sub rd rs1 rs2
  | .inc rd rs1 => Laws.EncodesInRow.inc rd rs1
  | .dec rd rs1 => Laws.EncodesInRow.dec rd rs1
  | .shl rd rs1 sh => Laws.EncodesInRow.shl rd rs1 sh
  | .shr rd rs1 sh => Laws.EncodesInRow.shr rd rs1 sh
  | .mul rd rs1 rs2 => Laws.EncodesInRow.mul rd rs1 rs2
  | .div rd rs1 rs2 => Laws.EncodesInRow.div rd rs1 rs2
  | .ceq rs1 rs2 => Laws.EncodesInRow.ceq rs1 rs2
  | .cne rs1 rs2 => Laws.EncodesInRow.cne rs1 rs2
  | .clt rs1 rs2 => Laws.EncodesInRow.clt rs1 rs2
  | .cle rs1 rs2 => Laws.EncodesInRow.cle rs1 rs2
  | .cgt rs1 rs2 => Laws.EncodesInRow.cgt rs1 rs2
  | .cge rs1 rs2 => Laws.EncodesInRow.cge rs1 rs2

/-- The row that a well-formed command's word selects is the command's own, with every operand. -/
theorem rowOf_encode (i : Instr) (hwf : i.wf = true) : rowOf (encode i) = some (i.format, i) := by
  obtain ⟨-, hopc⟩ := encodesInRow i hwf
  rw [rowOf, hopc]
  cases i with
  | nop | clrst => rfl
  | shl | shr => -- the one operand that well-formedness bounds
    have hsh := of_decide_eq_true hwf
    simp (disch := omega) [Instr.opcode, Instr.format, encode, Fin.ext_iff, rdField_packWord_val,
      rs1Field_packWord_val, shField_packWord]
  | _ =>
    simp (disch := omega) [Instr.opcode, Instr.format, encode, Fin.ext_iff, rdField_packWord_val,
      rs1Field_packWord_val, rs2Field_packWord_val]

/-- Settles O17: a command's word selects the command's own row, and its fixed bits are the row's. -/
theorem decodeOfEncodeIsTheCommand : Obligations.DecodeOfEncodeIsTheCommand := fun i hwf =>
  decode_encode_of_rowOf hwf (encodesInRow i) (rowOf_encode i hwf)

/-- Settles O19: each word is the encoding of its command. -/
theorem sampleWordsDecodeAsTheSpecWritesThem : Obligations.SampleWordsDecodeAsTheSpecWritesThem :=
  ⟨decodeOfEncodeIsTheCommand (.zero 5) rfl, decodeOfEncodeIsTheCommand (.cvtd 2) rfl,
    decodeOfEncodeIsTheCommand (.add 3 1 2) rfl, decodeOfEncodeIsTheCommand (.dec 2 1) rfl,
    decodeOfEncodeIsTheCommand (.cge 1 2) rfl, decodeOfEncodeIsTheCommand (.shl 2 1 1) rfl,
    decodeOfEncodeIsTheCommand (.div 3 1 2) rfl, decodeOfEncodeIsTheCommand (.rd 3) rfl,
    decodeOfEncodeIsTheCommand .clrst rfl, decodeOfEncodeIsTheCommand .nop rfl⟩

/-- The command of a word's row has the word's opcode, and in its operand fields the bits of the word that the format
leaves free (R71, R72). -/
theorem encode_of_rowOf {w : Cmd} {f : Format} {i : Instr} (hrow : rowOf w = some (f, i)) :
    encode i = BitVec.ofNat 32 (opcodeField w) <<< 24 ||| (w &&& ~~~f.mask) := by
  unfold rowOf at hrow
  split at hrow
  case h_23 => cases hrow
  case h_1 | h_8 => -- the format N leaves no bit free
    rename_i hopc
    cases hrow
    have mask_all : Format.n.mask = BitVec.allOnes 32 := by decide
    rw [hopc, mask_all, BitVec.not_allOnes, BitVec.and_zero, BitVec.or_zero]
    decide
  all_goals
    rename_i hopc
    cases hrow
    rw [hopc]
    simp only [encode, packWord, rdField_in_place, rs1Field_in_place, rs2Field_in_place, shField_in_place,
      BitVec.zero_shiftLeft, BitVec.or_zero, BitVec.or_assoc, ← BitVec.and_or_distrib_left]
    rfl

/-- Settles O18: the fixed bits of a legal word are its opcode's, and the others are the operands of its command. -/
theorem encodeOfDecodeIsTheWord : Obligations.EncodeOfDecodeIsTheWord := by
  intro w i h
  obtain ⟨f, hrow, hfix⟩ := (decode_eq_ok_iff w i).1 h
  obtain ⟨-, -, hwf⟩ := rowOf_opcode w f i hrow
  refine ⟨?_, hwf⟩
  calc encode i = BitVec.ofNat 32 (opcodeField w) <<< 24 ||| (w &&& ~~~f.mask) := encode_of_rowOf hrow
    _ = w &&& f.mask ||| w &&& ~~~f.mask := by rw [hfix]
    _ = w := by rw [← BitVec.and_or_distrib_left, BitVec.or_not_self, BitVec.and_allOnes]

/-! The three kinds of illegal word (R78). -/

/-- The reserved bits are 23, 19, 15 and 11:6 (R71). -/
theorem and_reservedBits_eq_zero_iff (w : Cmd) :
    w &&& reservedBits = 0#32 ↔
      (w.getLsbD 23 || w.getLsbD 19 || w.getLsbD 15 || !(w.extractLsb' 6 6 == 0#6)) = false := by
  have field_bit (k : ℕ) (hk : k < 6) : (w.extractLsb' 6 6).getLsbD k = w.getLsbD (6 + k) := by
    simp [hk]
  simp only [Bool.or_eq_false_iff, Bool.not_eq_false', beq_iff_eq, and_assoc]
  constructor
  · intro h
    have clear (j : ℕ) (hj : reservedBits.getLsbD j = true) : w.getLsbD j = false := by
      simpa [hj] using congrArg (·.getLsbD j) h
    have in_field : ∀ k < 6, reservedBits.getLsbD (6 + k) = true := by decide
    refine ⟨clear 23 (by decide), clear 19 (by decide), clear 15 (by decide), BitVec.eq_of_getLsbD_eq fun k hk => ?_⟩
    rw [field_bit k hk, clear _ (in_field k hk), BitVec.getLsbD_zero]
  · rintro ⟨h23, h19, h15, field_zero⟩
    have positions : ∀ j < 32, reservedBits.getLsbD j = true →
        j = 23 ∨ j = 19 ∨ j = 15 ∨ ∃ k < 6, j = 6 + k := by decide
    apply BitVec.eq_of_getLsbD_eq
    intro j hj
    rw [BitVec.getLsbD_and, BitVec.getLsbD_zero, Bool.and_eq_false_iff]
    by_cases hres : reservedBits.getLsbD j = true
    · left
      obtain rfl | rfl | rfl | ⟨k, hk, rfl⟩ := positions j hj hres
      · exact h23
      · exact h19
      · exact h15
      · rw [← field_bit k hk, field_zero, BitVec.getLsbD_zero]
    · exact .inr (Bool.eq_false_iff.2 hres)

/-- Every format fixes the reserved bits at 0 (R71, R72). -/
theorem and_reservedBits_of_fixed {w : Cmd} {f : Format}
    (hfix : w &&& f.mask = BitVec.ofNat 32 (opcodeField w) <<< 24) : w &&& reservedBits = 0#32 := by
  have fixed : f.mask &&& reservedBits = reservedBits := by cases f <;> decide
  have below_opcode : 0xFF000000#32 &&& reservedBits = 0#32 := by decide
  calc w &&& reservedBits = w &&& f.mask &&& reservedBits := by rw [BitVec.and_assoc, fixed]
    _ = w &&& 0xFF000000#32 &&& reservedBits := by rw [hfix, opcodeField_in_place]
    _ = 0#32 := by rw [BitVec.and_assoc, below_opcode, BitVec.and_zero]

/-- The decoder's row of a word is there when the opcode map lists the opcode, with the mask listed (R76). -/
theorem exists_rowOf_of_mem {w : Cmd} {m : Cmd} (hrow : (opcodeField w, m) ∈ opcodeMap) :
    ∃ f i, rowOf w = some (f, i) ∧ f.mask = m := by
  have hlookup := rowOf_mask_eq_lookup w
  rw [(opcodeMap_lookup_eq_some_iff _ _).2 hrow, Option.map_eq_some_iff] at hlookup
  obtain ⟨⟨f, i⟩, hw, hmask⟩ := hlookup
  exact ⟨f, i, hw, hmask⟩

/-- There is no row where the opcode map lists none (R76). -/
theorem rowOf_eq_none_of_not_mem {w : Cmd} (hopc : opcodeField w ∉ opcodeMap.map Prod.fst) : rowOf w = none := by
  rw [← Option.map_eq_none_iff, rowOf_mask_eq_lookup, List.lookup_eq_none_iff]
  intro row hrow
  exact bne_iff_ne.2 fun h => hopc (h ▸ List.mem_map_of_mem hrow)

/-- Settles O16: without a row the opcode is refused, and with one the two tests tell the other two kinds apart. -/
theorem reservedEncodingsAreRefused : Obligations.ReservedEncodingsAreRefused := by
  refine ⟨fun w => ⟨fun hopc => decode_of_rowOf_none (rowOf_eq_none_of_not_mem hopc), fun hopc hres => ?_,
    fun row hrow hopc hres hfix => ?_⟩, by decide +kernel⟩
  · obtain ⟨⟨opc, m⟩, hrow, rfl⟩ := List.mem_map.1 hopc
    obtain ⟨f, i, hw, -⟩ := exists_rowOf_of_mem hrow
    have reserved_set : w &&& reservedBits ≠ 0#32 := by
      rw [Ne, and_reservedBits_eq_zero_iff, hres]; decide
    rw [decode_of_rowOf_some hw, if_neg (mt and_reservedBits_of_fixed reserved_set), if_neg reserved_set]
  · obtain ⟨opc, m⟩ := row
    obtain rfl : opcodeField w = opc := hopc
    obtain ⟨f, i, hw, rfl⟩ := exists_rowOf_of_mem hrow
    rw [decode_of_rowOf_some hw, if_neg hfix, if_pos ((and_reservedBits_eq_zero_iff w).2 hres)]

end Sys2Proof.Machine
end

section
/-! PROOFS. One edge: its equation for each of the six things it can do, and what follows for the handshake and the
outputs (spec 70_reset_and_hazards.md R240 to R245). -/

namespace Sys2Proof.Machine

theorem latency_of_decode {c : Config} {w : Cmd} {i : Instr} (hw : decode w = .ok i) : latency c w = latencyOf c i := by
  rw [latency, hw]

theorem runWord_of_decode {w : Cmd} {i : Instr} (hw : decode w = .ok i) (s : State) : runWord w s = exec i s := by
  rw [runWord, hw]

/-! The equations of an edge, beside `step_of_rst`. -/

theorem step_of_not_rst {s : State} (hr : (portIn s).rst = false) : step s = runEdge (portIn s) (takeSample s) := by
  rw [step, clockEdge, hr]
  rfl

/-- The last edge of a command in flight completes it (R243(b)). -/
theorem step_of_last_edge {s : State} {f : InFlight} (hr : (portIn s).rst = false) (hf : s.inFlight = some f)
    (last : f.left ≤ 1) : step s = completeEdge f.cmd (takeSample s) := by
  simp [step_of_not_rst hr, runEdge, hf, last]

/-- Any other edge of a command in flight counts down (R243(c)). -/
theorem step_of_waiting {s : State} {f : InFlight} (hr : (portIn s).rst = false) (hf : s.inFlight = some f)
    (more : 1 < f.left) : step s = .next (waitEdge (takeSample s) f.cmd (f.left - 1)) := by
  simp [step_of_not_rst hr, runEdge, hf, more]

/-- An edge that accepts a command samples its operand (R243(a)). -/
theorem step_of_accepts {s : State} (ha : accepts s = true) :
    step s = acceptEdge (portIn s).cmd (portIn s).data (takeSample s) := by
  obtain ⟨hr, hv, hready, hf⟩ := (accepts_iff s).1 ha
  simp [step_of_not_rst hr, runEdge, hv, hready, hf]

/-- A command of latency 1 completes at the edge that accepts it (R243(b)). -/
theorem step_of_accepts_short {s : State} (ha : accepts s = true) (short : latency s.cfg (portIn s).cmd = 1) :
    step s = completeEdge (portIn s).cmd { takeSample s with data := (portIn s).data } := by
  rw [step_of_accepts ha]
  exact if_pos short

/-- A longer command is in flight from the edge that accepts it on (R243(b)). -/
theorem step_of_accepts_long {s : State} (ha : accepts s = true) (long : latency s.cfg (portIn s).cmd ≠ 1) :
    step s = .next (waitEdge { takeSample s with data := (portIn s).data } (portIn s).cmd
      (latency s.cfg (portIn s).cmd - 1)) := by
  rw [step_of_accepts ha]
  exact if_neg long

/-- An edge with nothing in flight and nothing accepted leaves CORE ready (R241, R243(c)). -/
theorem step_of_idle {s : State} (hr : (portIn s).rst = false) (hf : s.inFlight = none) (ha : accepts s = false) :
    step s = .next (idleEdge (takeSample s)) := by
  have nothing : ((portIn s).cmdValid && s.ready) = false := by simpa [accepts, hr, hf] using ha
  simp [step_of_not_rst hr, runEdge, hf, nothing]

/-- An edge at which CORE is not ready does not look at the command presented (R243(a)). -/
theorem runEdge_of_not_ready {s : State} (hready : s.ready = false) (x y : PortIn) : runEdge x s = runEdge y s := by
  simp [runEdge, hready]

theorem accepts_of_not_ready {s : State} (hready : s.ready = false) : accepts s = false := by
  simp [accepts, hready]

/-- A legal word that completes when it is accepted has its command's effect at that edge. -/
theorem step_eq_exec_of_accepts {s : State} {i : Instr} (ha : accepts s = true) (hw : decode (portIn s).cmd = .ok i)
    (short : latencyOf s.cfg i = 1) : step s = exec i (finish { takeSample s with data := (portIn s).data }) := by
  rw [step_of_accepts_short ha ((latency_of_decode hw).trans short), completeEdge, runWord_of_decode hw]

/-- A legal word in flight has its command's effect at its last edge. -/
theorem step_eq_exec_of_last_edge {s : State} {i : Instr} {w : Cmd} (hr : (portIn s).rst = false)
    (hf : s.inFlight = some ⟨w, 1⟩) (hw : decode w = .ok i) : step s = exec i (finish (takeSample s)) := by
  rw [step_of_last_edge hr hf (Nat.le_refl 1), completeEdge, runWord_of_decode hw]

/-- Settles O51: `withFetchWord` makes a state at one of the two kinds of completion edge. -/
theorem stepRunsTheDecodedCommand : Obligations.StepRunsTheDecodedCommand := by
  refine fun s i => ⟨step_eq_exec_of_accepts, fun w hf hr hw => step_eq_exec_of_last_edge hr hf hw, fun w hw => ?_⟩
  have same_word : BitVec.ofNat 32 (w % 2 ^ 32) = BitVec.ofNat 32 w :=
    BitVec.eq_of_toNat_eq (by simp only [BitVec.toNat_ofNat, Nat.mod_mod])
  rw [State.withFetchWord, same_word, presentWord, latency_of_decode hw]
  split_ifs with short
  · exact step_eq_exec_of_accepts rfl hw short
  · exact step_eq_exec_of_last_edge rfl rfl hw

/-- Settles O52: the invariant keeps a ready CORE from having a command in flight. -/
theorem onlyAReadyCoreAccepts : Obligations.OnlyAReadyCoreAccepts := by
  constructor
  · rintro s ⟨-, inFlight_not_ready⟩
    rw [accepts_iff]
    constructor
    · rintro ⟨hr, hv, hready, -⟩
      exact ⟨hr, hv, by simp [outputs, hready, hr]⟩
    · rintro ⟨hr, hv, hout⟩
      have hready : s.ready = true := by simpa [outputs, hr] using hout
      refine ⟨hr, hv, hready, Option.eq_none_iff_forall_ne_some.2 fun f hf => ?_⟩
      obtain ⟨not_ready, -⟩ := inFlight_not_ready f hf
      rw [hready] at not_ready
      cases not_ready
  · rintro s x rest hin hr hready
    have hx : portIn s = x := by rw [portIn, hin]; rfl
    have same_rest : takeSample { s with inputs := PortIn.idle :: rest } = takeSample s := by
      rw [takeSample, takeSample, hin]; rfl
    rw [step_of_not_rst (hx ▸ hr), step_of_not_rst (s := { s with inputs := PortIn.idle :: rest }) rfl, same_rest]
    exact runEdge_of_not_ready (s := takeSample s) hready _ _

/-- Settles O54, from what an edge does by the word that completes at it. -/
theorem outputsChangeOnlyAtCompletionOrReset : Obligations.OutputsChangeOnlyAtCompletionOrReset := by
  intro s t h
  obtain ⟨hr, -⟩ | ⟨hr, w, d, hc, hrun⟩ | ⟨hr, hc, harch, hdone⟩ := step_completing h
  · have nothing : completing s = none := if_pos hr
    simp [hr, nothing]
  · obtain ⟨u, hu, ⟨-, -, hf, hready, hdone, -⟩, -⟩ := runWord_total w (finish { takeSample s with data := d })
    cases hrun.symm.trans hu
    simp [hc, hf, hready, hdone]
  · simp [hc, harch, hdone]

/-- Settles O6: CORE is not ready after the reset edge, so that the edge after it is an idle one. -/
theorem firstEdgeAfterResetMakesCoreReady : Obligations.FirstEdgeAfterResetMakesCoreReady := by
  intro s t hr h hr'
  rw [step_of_rst hr] at h
  cases h
  exact ⟨_, step_of_idle hr' rfl (accepts_of_not_ready rfl), rfl, rfl, rfl, rfl⟩

end Sys2Proof.Machine
end

section
/-! PROOFS. The invariant: it holds after reset, and every edge keeps it (spec 10_state.md R21, R28, R32;
70_reset_and_hazards.md R243). -/

namespace Sys2Proof.Machine

/-- With nothing in flight the invariant is about the patterns alone. -/
theorem inv_of_inFlight_none {s : State} (fits : s.PatternsFit) (hf : s.inFlight = none) : s.Inv :=
  ⟨fits, fun f h => by rw [hf] at h; cases h⟩

/-- With a command in flight that the last edge left waiting, it is about the edges left, too. -/
theorem waitEdge_inv {s : State} {w : Cmd} {left : ℕ} (fits : s.PatternsFit) (h1 : 1 ≤ left)
    (h2 : left < latency s.cfg w) : (waitEdge s w left).Inv :=
  ⟨fits, fun f hf => by cases hf; exact ⟨rfl, rfl, h1, h2⟩⟩

/-- A completion edge keeps the patterns and leaves nothing in flight (R243(b)). -/
theorem completeEdge_inv {w : Cmd} {s t : State} (fits : s.PatternsFit) (h : completeEdge w s = .next t) : t.Inv := by
  obtain ⟨u, hu, -, ⟨-, -, hf, -⟩, keeps⟩ := completeEdge_total w s
  cases h.symm.trans hu
  exact inv_of_inFlight_none (keeps fits) hf

/-- The reset values are patterns of every width (R32). -/
theorem resetOf_fits (c : Config) : (State.resetOf c).PatternsFit := by
  have zero_fits : FitsWidth c 0#64 := two_pow_bits_pos c
  obtain ⟨hv, -, hres, -⟩ := resetOf_elements c
  exact ⟨fun k => (hv k).symm ▸ zero_fits, hres.symm ▸ zero_fits⟩

/-- Settles O56: zero fits every width, and nothing is in flight. -/
theorem invariantHoldsAfterReset : Obligations.InvariantHoldsAfterReset := fun c =>
  ⟨inv_of_inFlight_none (resetOf_fits c) rfl, inv_of_inFlight_none (resetOf_fits Config.default) rfl⟩

/-- Every edge keeps the invariant, whatever it does. -/
theorem step_inv {s t : State} (hinv : s.Inv) (h : step s = .next t) : t.Inv := by
  obtain ⟨fits, inFlight_waits⟩ := hinv
  obtain ⟨-, hs⟩ | ⟨-, f, -, -, hs⟩ | ⟨-, f, hf, more, hs⟩ | ⟨-, -, hs⟩ | ⟨-, long, hs⟩ | ⟨-, hf, -, hs⟩ :=
    step_cases s <;> rw [hs] at h
  · cases h; exact inv_of_inFlight_none (resetOf_fits s.cfg) rfl
  · exact completeEdge_inv (s := takeSample s) fits h
  · obtain ⟨-, -, -, within⟩ := inFlight_waits f hf
    cases h; exact waitEdge_inv fits (by omega) (lt_of_le_of_lt (Nat.sub_le ..) within)
  · exact completeEdge_inv (s := { takeSample s with data := _ }) fits h
  · cases h; exact waitEdge_inv fits (by omega) (Nat.sub_lt (by omega) Nat.one_pos)
  · cases h; exact inv_of_inFlight_none fits hf

/-- Settles O57: an edge keeps the invariant, and never writes the parameters. -/
theorem everyStepKeepsTheInvariant : Obligations.EveryStepKeepsTheInvariant := fun s t hinv h =>
  ⟨step_inv hinv h, step_cfg s t h⟩

end Sys2Proof.Machine
end

section
/-! PROOFS. The parameters that no command reads: I and the latencies (spec 00_scope.md R8; 70_reset_and_hazards.md
R245). -/

namespace Sys2Proof.Machine

/-- Of the parameters, a conversion reads W and F alone (R100). -/
theorem writeConversion_with_cfg {s : State} {c : Config} (hw : c.width = s.cfg.width) (hf : c.fbits = s.cfg.fbits)
    (rd : Reg) (x : FpValue) :
    writeConversion { s with cfg := c } rd x = { writeConversion s rd x with cfg := c } := by
  cases x with
  | nan | inf => rfl
  | real x => simp [writeConversion, conv, wrap, Config.bits, hw, hf, writeResult, writeRes, writeV]

/-- Settles O50: the parameters stay where they are, and I and the latencies are in no command's formula. -/
theorem onlyWidthSignednessAndFractionMatter : Obligations.OnlyWidthSignednessAndFractionMatter := by
  intro i s t c hwidth hsigned hfbits h
  have conversion (rd : Reg) (x : FpValue) := writeConversion_with_cfg hwidth hfbits rd x
  obtain ⟨width, signed, ibits, fbits, waits, legal⟩ := c
  obtain rfl : width = s.cfg.width := hwidth
  obtain rfl : signed = s.cfg.signed := hsigned
  obtain rfl : fbits = s.cfg.fbits := hfbits
  cases i with
  | cvts rd | cvtd rd => cases h; exact congrArg Host.Outcome.next (conversion rd _)
  | div rd a b =>
    by_cases h0 : val s.cfg s.v[b] = 0
    · rw [exec_div_zero rd a b s h0] at h; cases h
      exact exec_div_zero rd a b _ h0
    · rw [exec_div_nonzero rd a b s h0] at h; cases h
      exact exec_div_nonzero rd a b _ h0
  | _ => cases h; rfl

end Sys2Proof.Machine
end

section
/-! PROOFS. Runs of edges: how long a command takes, an idle CORE, and the refinement of a run by the commands that it
accepts (spec 00_scope.md R17; 20_memory.md R54, R57; 70_reset_and_hazards.md R243, R245). -/

namespace Sys2Proof.Machine

/-- A property of the next samples, which the silence after the last one has too, holds of the sample that the next edge
takes and of those left after it (R233). -/
theorem forall_samples_succ {P : PortIn → Prop} (idle : P PortIn.idle) {k : ℕ} {s : State}
    (all : ∀ x ∈ s.inputs.take (k + 1), P x) : P (portIn s) ∧ ∀ x ∈ s.inputs.tail.take k, P x := by
  rw [portIn]
  cases hin : s.inputs with
  | nil => exact ⟨idle, by simp⟩
  | cons x rest => simpa [hin] using all

theorem noReset_succ {k : ℕ} {s : State} (hr : NoReset (k + 1) s) :
    (portIn s).rst = false ∧ ∀ t, step s = .next t → NoReset k t := by
  obtain ⟨now, later⟩ := forall_samples_succ (P := (·.rst = false)) rfl hr
  exact ⟨now, fun t h => by rwa [NoReset, step_inputs s t h]⟩

theorem noReset_mono {j k : ℕ} {s : State} (hjk : j ≤ k) (hr : NoReset k s) : NoReset j s := fun x hx =>
  hr x (List.take_subset_take_left s.inputs hjk hx)

/-- Settles O55, by induction on the number of edges: each is an idle edge. -/
theorem idleCoreHoldsItsState : Obligations.IdleCoreHoldsItsState := by
  intro k
  induction k with
  | zero => exact fun s hf _ => ⟨s, core_run_zero s, rfl, hf⟩
  | succ k ih =>
    intro s hf silent
    have idle : PortIn.idle.rst = false ∧ PortIn.idle.cmdValid = false := ⟨rfl, rfl⟩
    obtain ⟨⟨hr, hv⟩, silent'⟩ :=
      forall_samples_succ (P := fun x => x.rst = false ∧ x.cmdValid = false) idle silent
    have not_accepted : accepts s = false := by simp [accepts, hv]
    obtain ⟨t, ht, harch, hf'⟩ := ih (idleEdge (takeSample s)) hf silent'
    exact ⟨t, (core_run_succ k s _ (step_of_idle hr hf not_accepted)).trans ht, harch, hf'⟩

/-! A command in flight: its wait, its completion, and its effect counted as done. -/

/-- A completion edge has the effect of the word on any state with the same architectural part and operand (R54,
R243(b), (d)). -/
theorem completeEdge_of_runWord {w : Cmd} {s s' u : State} (h : runWord w s = .next u) (ha : s.arch = s'.arch)
    (hd : s.data = s'.data) :
    ∃ t, completeEdge w s' = .next t ∧ t.arch = u.arch ∧ t.ready = true ∧ t.done = true ∧ t.inFlight = none := by
  obtain ⟨t, ht, hrun, ⟨-, -, hf, hready, hdone, -⟩, -⟩ := completeEdge_total w s'
  obtain ⟨t', ht', harch⟩ := runWord_arch_congr w s (finish s') u ha hd h
  cases hrun.symm.trans ht'
  exact ⟨t, ht, harch, hready, hdone, hf⟩

/-- The word `w` is in flight with `left` edges to go and the operand `d`, in the architectural state `a`. -/
def Waiting (a : Arch) (d : Data) (w : Cmd) (left : ℕ) (s : State) : Prop :=
  s.arch = a ∧ s.data = d ∧ s.inFlight = some ⟨w, left⟩ ∧ s.ready = false ∧ s.done = false

/-- The edge that accepts a longer command leaves it waiting (R243(a), (b)). -/
theorem step_accepts_waiting {s : State} {left : ℕ} (ha : accepts s = true)
    (hlat : latency s.cfg (portIn s).cmd = left + 1) (more : 1 ≤ left) :
    ∃ t, step s = .next t ∧ Waiting s.arch (portIn s).data (portIn s).cmd left t := by
  refine ⟨_, step_of_accepts_long ha (by omega), rfl, rfl, ?_, rfl, rfl⟩
  rw [waitEdge_inFlight, hlat, Nat.add_sub_cancel]

section
variable {a : Arch} {d : Data} {w : Cmd}

/-- An edge before the last one leaves the command waiting (R243(c)). -/
theorem Waiting.after_edge {s : State} {left k : ℕ} (hs : Waiting a d w (left + 1) s) (more : 1 ≤ left)
    (hr : NoReset (k + 1) s) : ∃ t, step s = .next t ∧ Waiting a d w left t ∧ NoReset k t := by
  obtain ⟨harch, hdata, hf, -, -⟩ := hs
  obtain ⟨now, later⟩ := noReset_succ hr
  have h := step_of_waiting now hf (Nat.lt_succ_of_le more)
  exact ⟨_, h, ⟨harch, hdata, rfl, rfl, rfl⟩, later _ h⟩

/-- The command waits for as many edges as leave it one or more (R243(b), (c)). -/
theorem Waiting.after_run {s : State} {left k : ℕ} (hs : Waiting a d w (left + k) s) (more : 1 ≤ left)
    (hr : NoReset k s) : ∃ t, Sys2Proof.core.run k s = .next t ∧ Waiting a d w left t := by
  induction k generalizing s with
  | zero => exact ⟨s, core_run_zero s, hs⟩
  | succ k ih =>
    obtain ⟨t, ht, wait, hr'⟩ := Waiting.after_edge (left := left + k) hs (by omega) hr
    obtain ⟨u, hu, wait'⟩ := ih wait hr'
    exact ⟨u, (core_run_succ k s t ht).trans hu, wait'⟩

/-- At its last edge the command completes (R243(b), (d)). -/
theorem Waiting.completes {s s₀ u : State} {k : ℕ} (hs : Waiting s₀.arch s₀.data w (k + 1) s)
    (hr : NoReset (k + 1) s) (h : runWord w s₀ = .next u) :
    ∃ t, Sys2Proof.core.run (k + 1) s = .next t ∧ t.arch = u.arch ∧ t.ready = true ∧ t.done = true ∧
      t.inFlight = none := by
  induction k generalizing s with
  | zero =>
    obtain ⟨harch, hdata, hf, -, -⟩ := hs
    obtain ⟨now, -⟩ := noReset_succ hr
    obtain ⟨t, ht, completed⟩ := completeEdge_of_runWord h (s' := takeSample s) harch.symm hdata.symm
    rw [← step_of_last_edge now hf (Nat.le_refl 1)] at ht
    exact ⟨t, core_run_succ 0 s t ht, completed⟩
  | succ k ih =>
    obtain ⟨t, ht, wait, hr'⟩ := hs.after_edge (Nat.succ_pos k) hr
    obtain ⟨t', hrun, completed⟩ := ih wait hr'
    exact ⟨t', (core_run_succ (k + 1) s t ht).trans hrun, completed⟩

end

/-- Settles O53: a command of latency 1 completes when it is accepted, and a longer one waits from there on. -/
theorem commandsCompleteAfterTheirLatency : Obligations.CommandsCompleteAfterTheirLatency := by
  intro s i ha hw hr
  obtain ⟨u, hu, -⟩ := exec_total i { s with data := (portIn s).data }
  have hrun : runWord (portIn s).cmd { s with data := (portIn s).data } = .next u := (runWord_of_decode hw _).trans hu
  have hlat := latency_of_decode (c := s.cfg) hw
  obtain ⟨left, hleft⟩ : ∃ left, latencyOf s.cfg i = left + 1 := ⟨_, rfl⟩
  rw [hleft] at hlat hr ⊢
  obtain ⟨-, later⟩ := noReset_succ hr
  cases left with
  | zero =>
    obtain ⟨t, ht, harch, hready, hdone, hf⟩ :=
      completeEdge_of_runWord hrun (s' := { takeSample s with data := (portIn s).data }) rfl rfl
    rw [← step_of_accepts_short ha hlat] at ht
    exact ⟨by omega, t, u, core_run_succ 0 s t ht, hu, harch, hready, hdone, hf⟩
  | succ left =>
    obtain ⟨t, ht, wait⟩ := step_accepts_waiting ha hlat (Nat.succ_pos left)
    have hr' := later t ht
    constructor
    · intro k hk hk'
      obtain ⟨j, rfl⟩ : ∃ j, k = j + 1 := ⟨k - 1, by omega⟩
      obtain ⟨m, hm⟩ : ∃ m, left + 1 = m + j := ⟨left + 1 - j, by omega⟩
      rw [hm] at wait
      obtain ⟨v, hv, harch, -, -, hready, hdone⟩ := wait.after_run (by omega) (noReset_mono (by omega) hr')
      exact ⟨v, (core_run_succ j s t ht).trans hv, hready, hdone, harch⟩
    · obtain ⟨v, hv, harch, hready, hdone, hf⟩ := wait.completes hr' hrun
      exact ⟨v, u, (core_run_succ (left + 1) s t ht).trans hv, hu, harch, hready, hdone, hf⟩

/-! The refinement: a command in flight is counted as done. -/

theorem flush_of_inFlight_none {s : State} (hf : s.inFlight = none) : flush s = s := by
  rw [flush, hf]

/-- The command in flight, counted as done, has the effect of its word on any state with the same architectural part and
operand. -/
theorem flush_arch_of_inFlight {w : Cmd} {left : ℕ} {s s' u : State} (h : runWord w s = .next u)
    (hf : s'.inFlight = some ⟨w, left⟩) (ha : s.arch = s'.arch) (hd : s.data = s'.data) : (flush s').arch = u.arch := by
  obtain ⟨t, ht, harch⟩ := runWord_arch_congr w s s' u ha hd h
  simp only [flush, hf, ht, harch]

/-- The edge that accepts a word has the word's effect, whatever its latency. -/
theorem flush_arch_of_accepts {s t : State} (h : step s = .next t) (ha : accepts s = true) :
    ∃ u, runWord (portIn s).cmd { s with data := (portIn s).data } = .next u ∧ (flush t).arch = u.arch := by
  obtain ⟨u, hu, -⟩ := runWord_total (portIn s).cmd { s with data := (portIn s).data }
  refine ⟨u, hu, ?_⟩
  by_cases short : latency s.cfg (portIn s).cmd = 1
  · obtain ⟨t', ht', harch, -, -, hf⟩ :=
      completeEdge_of_runWord hu (s' := { takeSample s with data := (portIn s).data }) rfl rfl
    cases (step_of_accepts_short ha short ▸ ht').symm.trans h
    rw [flush_of_inFlight_none hf, harch]
  · cases (step_of_accepts_long ha short).symm.trans h
    exact flush_arch_of_inFlight hu rfl rfl rfl

/-- An edge that neither resets nor accepts has no effect of its own. -/
theorem flush_arch_of_not_accepts {s t : State} (h : step s = .next t) (hr : (portIn s).rst = false)
    (ha : accepts s = false) : (flush t).arch = (flush s).arch := by
  cases hf : s.inFlight with
  | none =>
    cases (step_of_idle hr hf ha).symm.trans h
    rw [flush_of_inFlight_none hf, flush_of_inFlight_none (s := idleEdge (takeSample s)) hf]
    rfl
  | some f =>
    obtain ⟨u, hu, -⟩ := runWord_total f.cmd s
    rw [flush_arch_of_inFlight hu hf rfl rfl]
    by_cases last : f.left ≤ 1
    · obtain ⟨t', ht', harch, -, -, hf'⟩ := completeEdge_of_runWord hu (s' := takeSample s) rfl rfl
      cases (step_of_last_edge hr hf last ▸ ht').symm.trans h
      rw [flush_of_inFlight_none hf', harch]
    · cases (step_of_waiting hr hf (by omega)).symm.trans h
      exact flush_arch_of_inFlight hu rfl rfl rfl

/-- Settles O58: an edge resets, accepts, or has no effect of its own. -/
theorem eachEdgeRefinesOneCommandStep : Obligations.EachEdgeRefinesOneCommandStep := by
  refine fun s t h => ⟨fun hr => ?_, flush_arch_of_accepts h, flush_arch_of_not_accepts h⟩
  cases (step_of_rst hr).symm.trans h
  exact ⟨rfl, rfl⟩

/-- Each command brings its operand with it, so that a sequence of commands depends on the architectural state alone. -/
theorem runCommands_arch_congr {cmds : List (Cmd × Data)} {s s' u : State} (ha : s.arch = s'.arch)
    (h : runCommands cmds s = .next u) : ∃ u', runCommands cmds s' = .next u' ∧ u'.arch = u.arch := by
  induction cmds generalizing s s' with
  | nil => cases h; exact ⟨s', rfl, ha.symm⟩
  | cons cmd rest ih =>
    obtain ⟨w, d⟩ := cmd
    obtain ⟨t, ht, -⟩ := runWord_total w { s with data := d }
    obtain ⟨t', ht', harch⟩ := runWord_arch_congr w { s with data := d } { s' with data := d } t ha rfl ht
    simp only [runCommands, ht, ht'] at h ⊢
    exact ih harch.symm h

/-- Settles O59, by induction on the number of edges: the first edge is one command's step or none, and the commands after
it run on from the same architectural state. -/
theorem runsRefineTheSequenceOfAcceptedCommands : Obligations.RunsRefineTheSequenceOfAcceptedCommands := by
  intro k
  induction k with
  | zero => exact fun s _ => ⟨s, flush s, core_run_zero s, rfl, rfl⟩
  | succ k ih =>
    intro s hr
    obtain ⟨t, h⟩ := step_total s
    obtain ⟨now, later⟩ := noReset_succ hr
    obtain ⟨t', u, hrun, hcmds, harch⟩ := ih t (later t h)
    have hrun' := (core_run_succ k s t h).trans hrun
    cases ha : accepts s with
    | false =>
      obtain ⟨u', hu', harch'⟩ := runCommands_arch_congr (flush_arch_of_not_accepts h now ha) hcmds
      exact ⟨t', u', hrun', by simpa [acceptedIn, h, ha] using hu', harch.trans harch'.symm⟩
    | true =>
      obtain ⟨-, -, -, hf⟩ := (accepts_iff s).1 ha
      obtain ⟨v, hv, heffect⟩ := flush_arch_of_accepts h ha
      obtain ⟨u', hu', harch'⟩ := runCommands_arch_congr heffect hcmds
      refine ⟨t', u', hrun', ?_, harch.trans harch'.symm⟩
      simpa [acceptedIn, h, ha, flush_of_inFlight_none hf, runCommands, hv] using hu'

end Sys2Proof.Machine
end
